-- ==== Sys2Proof/Word.lean ====
section
/-!
DEFINITION. The word types of the core (00_scope.md R8, R9): every value is unsigned, and a bit vector of its width
wraps only where the spec writes `mod 256` or `mod 2^16`.
-/

namespace Sys2Proof

/-- A nibble: four bits of an instruction word (00_scope.md R8). -/
abbrev Nibble := BitVec 4

/-- `u8`: a general register, a memory cell, a timer count, the immediate KK (00_scope.md R9). -/
abbrev Byte := BitVec 8

/-- `u16`: PC, I, a stack slot, an instruction word, a fault register (00_scope.md R9). -/
abbrev Word := BitVec 16

/-- The 12-bit immediate NNN (30_encoding.md R77). -/
abbrev Imm12 := BitVec 12

/-- A register number 0..15 (10_state.md R20), or the number of a key line (10_state.md R33). -/
abbrev RegNum := Fin 16

end Sys2Proof
end

