-- ==== Sys2Proof/Config.lean ====
section
/-!
DEFINITION. What is fixed outside the state: the type of the parameter FONT, and the free values.
-/

namespace Sys2Proof.Config

/-- The parameter FONT: 16 glyphs of 5 bytes, glyph d at 5*d (00_scope.md R7, 20_memory.md R58). -/
abbrev Font := Vector Byte 80

/-- The RAND input (60_exceptions.md R242, 00_scope.md R13): the byte that the n-th execution of CXKK takes is a free
value in 0..255, "under no law". It has no body, so no proof can depend on any byte of it (log entry 1). -/
opaque randByte : Nat → Byte

end Sys2Proof.Config
end

