-- ==== Sys2Proof/Syntax.lean ====
section
/-!
DEFINITION. The instructions: one constructor of `Instr` per row of spec/opcode_table.json (30_encoding.md R80, R92).

Operand fields are those of 30_encoding.md R77: `x`, `y` register numbers, `kk` an 8-bit and `nnn` a 12-bit immediate,
`n` the row count of DXYN. The bits that decode does not examine and the operation does not use (R90) stay in the field
`ign`: they have no effect, but a fault records the whole word in FAULT_WORD (60_exceptions.md R226), so an instruction
is exactly its word. The field `y` of SHR and SHL is "encoded but not read" (42_load_alu.md R149, R151).
-/

namespace Sys2Proof

inductive Instr where
  -- control flow (40_control_flow.md)
  | sys (nnn : Imm12)
  | ret (ign : Byte)
  | jp (nnn : Imm12)
  | call (nnn : Imm12)
  | jpV0 (nnn : Imm12)
  -- conditional skips (41_conditional_skip.md)
  | seImm (x : RegNum) (kk : Byte)
  | sneImm (x : RegNum) (kk : Byte)
  | seReg (x y : RegNum) (ign : Nibble)
  | sneReg (x y : RegNum) (ign : Nibble)
  -- loads, arithmetic and logic (42_load_alu.md)
  | ldImm (x : RegNum) (kk : Byte)
  | addImm (x : RegNum) (kk : Byte)
  | ldReg (x y : RegNum)
  | orReg (x y : RegNum)
  | andReg (x y : RegNum)
  | xorReg (x y : RegNum)
  | addReg (x y : RegNum)
  | sub (x y : RegNum)
  | shr (x y : RegNum)
  | subn (x y : RegNum)
  | shl (x y : RegNum)
  | rnd (x : RegNum) (kk : Byte)
  -- index register and memory transfers (43_index_memory.md)
  | ldI (nnn : Imm12)
  | addIVx (x : RegNum) (ign : Nibble)
  | ldFVx (x : RegNum) (ign : Nibble)
  | ldBVx (x : RegNum) (ign : Nibble)
  | ldMemVx (x : RegNum)
  | ldVxMem (x : RegNum)
  -- display (44_display.md)
  | cls (ign : Byte)
  | drw (x y : RegNum) (n : Fin 16)
  -- keypad (45_keypad.md)
  | skp (x : RegNum) (ign : Nibble)
  | sknp (x : RegNum) (ign : Nibble)
  | ldVxK (x : RegNum) (ign : Nibble)
  -- timer access (46_timers.md)
  | ldVxDt (x : RegNum) (ign : Nibble)
  | ldDtVx (x : RegNum)
  | ldStVx (x : RegNum) (ign : Nibble)
  -- the invalid-opcode operation (30_encoding.md R92), with the whole word
  | invalid (w : Word)
deriving DecidableEq, Repr

/-- The 35 operations and INVALID, named as 30_encoding.md R80 names them. -/
inductive Op where
  | CLS | RET | SYS | JP | CALL | SE_IMM | SNE_IMM | SE_REG | LD_IMM | ADD_IMM | LD_REG | OR | AND | XOR | ADD_REG | SUB
  | SHR | SUBN | SHL | SNE_REG | LD_I | JP_V0 | RND | DRW | SKP | SKNP | LD_VX_DT | LD_VX_K | LD_DT_VX | LD_ST_VX
  | ADD_I_VX | LD_F_VX | LD_B_VX | LD_MEM_VX | LD_VX_MEM | INVALID
deriving DecidableEq, Repr

/-- The operation of an instruction (30_encoding.md R80). -/
def Instr.op : Instr → Op
  | .sys _ => .SYS
  | .ret _ => .RET
  | .jp _ => .JP
  | .call _ => .CALL
  | .jpV0 _ => .JP_V0
  | .seImm _ _ => .SE_IMM
  | .sneImm _ _ => .SNE_IMM
  | .seReg _ _ _ => .SE_REG
  | .sneReg _ _ _ => .SNE_REG
  | .ldImm _ _ => .LD_IMM
  | .addImm _ _ => .ADD_IMM
  | .ldReg _ _ => .LD_REG
  | .orReg _ _ => .OR
  | .andReg _ _ => .AND
  | .xorReg _ _ => .XOR
  | .addReg _ _ => .ADD_REG
  | .sub _ _ => .SUB
  | .shr _ _ => .SHR
  | .subn _ _ => .SUBN
  | .shl _ _ => .SHL
  | .rnd _ _ => .RND
  | .ldI _ => .LD_I
  | .addIVx _ _ => .ADD_I_VX
  | .ldFVx _ _ => .LD_F_VX
  | .ldBVx _ _ => .LD_B_VX
  | .ldMemVx _ => .LD_MEM_VX
  | .ldVxMem _ => .LD_VX_MEM
  | .cls _ => .CLS
  | .drw _ _ _ => .DRW
  | .skp _ _ => .SKP
  | .sknp _ _ => .SKNP
  | .ldVxK _ _ => .LD_VX_K
  | .ldVxDt _ _ => .LD_VX_DT
  | .ldDtVx _ => .LD_DT_VX
  | .ldStVx _ _ => .LD_ST_VX
  | .invalid _ => .INVALID

end Sys2Proof
end

