-- ==== Sys2Proof/WellFormed.lean ====
section
/-!
DEFINITION. Which terms of `Instr` are instructions. The field types already bound every operand; two checks remain:
the words of SYS are those whose low nibble is neither 0x0 (CLS) nor 0xE (RET) (30_encoding.md R82), and the words of
INVALID are those of no operation (R84 to R88).
-/

namespace Sys2Proof

/-- The words that no operation claims: the high nibbles 0x8 (30_encoding.md R84), 0xE (R85) and 0xF (R86, R87) with an
unmapped low or middle nibble. -/
def unclaimedWord (w : Word) : Bool :=
  let h := w.extractLsb' 12 4
  let m := w.extractLsb' 4 4
  let l := w.extractLsb' 0 4
  (h == 0x8#4 && [0x8#4, 0x9#4, 0xA#4, 0xB#4, 0xC#4, 0xD#4, 0xF#4].contains l)
  || (h == 0xE#4 && !([0x1#4, 0xE#4].contains l))
  || (h == 0xF#4 && [0x0#4, 0x1#4, 0x2#4, 0x4#4, 0x6#4, 0xB#4, 0xC#4, 0xD#4, 0xF#4].contains l)
  || (h == 0xF#4 && l == 0x5#4 && !([0x1#4, 0x5#4, 0x6#4].contains m))

/-- A well-formed instruction is one that some word decodes to. -/
def Instr.wf : Instr → Bool
  | .sys nnn => !([0x0#4, 0xE#4].contains (nnn.extractLsb' 0 4))
  | .invalid w => unclaimedWord w
  | _ => true

end Sys2Proof
end

