-- ==== Sys2Proof/Decode.lean ====
section
/-!
DEFINITION. From instruction words to instructions and back (30_encoding.md R75 to R92).
Decode is "a pure, total function" (R81): every word gives one instruction, and a word of no operation is rejected by
name as `.invalid w`. The encoder follows the same patterns (R80, opcode_table.json).
-/

namespace Sys2Proof

/-! ### Fields of a word (R76, R77) -/

/-- N1 = w[15:12], the high nibble. -/
def nib3 (w : Word) : Nibble := w.extractLsb' 12 4

/-- N2 = w[11:8], the field X. -/
def nib2 (w : Word) : Nibble := w.extractLsb' 8 4

/-- N3 = w[7:4], the middle nibble, the field Y. -/
def nib1 (w : Word) : Nibble := w.extractLsb' 4 4

/-- N4 = w[3:0], the low nibble, the field N. -/
def nib0 (w : Word) : Nibble := w.extractLsb' 0 4

/-- KK = w[7:0]. -/
def immKK (w : Word) : Byte := w.extractLsb' 0 8

/-- NNN = w[11:0]. -/
def immNNN (w : Word) : Imm12 := w.extractLsb' 0 12

/-- Bits 11:4, which CLS and RET ignore (R82, R90). -/
def midByte (w : Word) : Byte := w.extractLsb' 4 8

/-- A nibble read as a register number (R77). -/
def nibReg (n : Nibble) : RegNum := n.toFin

/-- A register number (or a row count) as the nibble that encodes it. -/
def regNib (x : RegNum) : Nibble := BitVec.ofFin x

/-- The word of four nibbles, most significant first (R76). -/
def word (n3 n2 n1 n0 : Nibble) : Word := n3 ++ n2 ++ n1 ++ n0

/-- The big-endian word of two bytes: the byte at the lower address is the more significant one (20_memory.md R54). -/
def beWord (hi lo : Byte) : Word := hi ++ lo

/-- The byte of a word stored at the lower address (20_memory.md R54). -/
def hiByte (w : Word) : Byte := w.extractLsb' 8 8

/-- The byte of a word stored at the higher address (20_memory.md R54). -/
def loByte (w : Word) : Byte := w.extractLsb' 0 8

/-! ### Decode (R82 to R89) -/

/-- `Decode(w)` of 30_encoding.md R89, with every field of the word kept in the instruction. -/
def decode (w : Word) : Instr :=
  let x := nibReg (nib2 w)
  let y := nibReg (nib1 w)
  let n := nibReg (nib0 w)
  let kk := immKK w
  let nnn := immNNN w
  match (nib3 w).toNat with
  | 0x0 => match (nib0 w).toNat with
    | 0x0 => .cls (midByte w)
    | 0xE => .ret (midByte w)
    | _ => .sys nnn
  | 0x1 => .jp nnn
  | 0x2 => .call nnn
  | 0x3 => .seImm x kk
  | 0x4 => .sneImm x kk
  | 0x5 => .seReg x y (nib0 w)
  | 0x6 => .ldImm x kk
  | 0x7 => .addImm x kk
  | 0x8 => match (nib0 w).toNat with
    | 0x0 => .ldReg x y
    | 0x1 => .orReg x y
    | 0x2 => .andReg x y
    | 0x3 => .xorReg x y
    | 0x4 => .addReg x y
    | 0x5 => .sub x y
    | 0x6 => .shr x y
    | 0x7 => .subn x y
    | 0xE => .shl x y
    | _ => .invalid w
  | 0x9 => .sneReg x y (nib0 w)
  | 0xA => .ldI nnn
  | 0xB => .jpV0 nnn
  | 0xC => .rnd x kk
  | 0xD => .drw x y n
  | 0xE => match (nib0 w).toNat with
    | 0x1 => .sknp x (nib1 w)
    | 0xE => .skp x (nib1 w)
    | _ => .invalid w
  | _ => match (nib0 w).toNat with  -- the high nibble is 0xF
    | 0x3 => .ldBVx x (nib1 w)
    | 0x5 => match (nib1 w).toNat with
      | 0x1 => .ldDtVx x
      | 0x5 => .ldMemVx x
      | 0x6 => .ldVxMem x
      | _ => .invalid w
    | 0x7 => .ldVxDt x (nib1 w)
    | 0x8 => .ldStVx x (nib1 w)
    | 0x9 => .ldFVx x (nib1 w)
    | 0xA => .ldVxK x (nib1 w)
    | 0xE => .addIVx x (nib1 w)
    | _ => .invalid w

/-- Decode the first instruction of a stream of bytes: every instruction is two bytes, the more significant one first
(R75, R94). Fewer than two bytes hold no instruction. -/
def decodeBytes : List Byte → Option (Instr × List Byte)
  | hi :: lo :: rest => some (decode (beWord hi lo), rest)
  | _ => none

/-! ### Encode (R80, R84 to R87) -/

/-- The immediate NNN below a high nibble. -/
def wordNNN (n3 : Nibble) (nnn : Imm12) : Word := n3 ++ nnn

/-- X and the immediate KK below a high nibble. -/
def wordXKK (n3 : Nibble) (x : RegNum) (kk : Byte) : Word := n3 ++ regNib x ++ kk

/-- A word whose bits 11:4 are ignored. -/
def wordIgn (n3 : Nibble) (ign : Byte) (n0 : Nibble) : Word := n3 ++ ign ++ n0

/-- The word of an instruction, ignored bits included. -/
def encode : Instr → Word
  | .cls ign => wordIgn 0x0 ign 0x0
  | .ret ign => wordIgn 0x0 ign 0xE
  | .sys nnn => wordNNN 0x0 nnn
  | .jp nnn => wordNNN 0x1 nnn
  | .call nnn => wordNNN 0x2 nnn
  | .seImm x kk => wordXKK 0x3 x kk
  | .sneImm x kk => wordXKK 0x4 x kk
  | .seReg x y ign => word 0x5 (regNib x) (regNib y) ign
  | .ldImm x kk => wordXKK 0x6 x kk
  | .addImm x kk => wordXKK 0x7 x kk
  | .ldReg x y => word 0x8 (regNib x) (regNib y) 0x0
  | .orReg x y => word 0x8 (regNib x) (regNib y) 0x1
  | .andReg x y => word 0x8 (regNib x) (regNib y) 0x2
  | .xorReg x y => word 0x8 (regNib x) (regNib y) 0x3
  | .addReg x y => word 0x8 (regNib x) (regNib y) 0x4
  | .sub x y => word 0x8 (regNib x) (regNib y) 0x5
  | .shr x y => word 0x8 (regNib x) (regNib y) 0x6
  | .subn x y => word 0x8 (regNib x) (regNib y) 0x7
  | .shl x y => word 0x8 (regNib x) (regNib y) 0xE
  | .sneReg x y ign => word 0x9 (regNib x) (regNib y) ign
  | .ldI nnn => wordNNN 0xA nnn
  | .jpV0 nnn => wordNNN 0xB nnn
  | .rnd x kk => wordXKK 0xC x kk
  | .drw x y n => word 0xD (regNib x) (regNib y) (regNib n)
  | .skp x ign => word 0xE (regNib x) ign 0xE
  | .sknp x ign => word 0xE (regNib x) ign 0x1
  | .ldVxDt x ign => word 0xF (regNib x) ign 0x7
  | .ldVxK x ign => word 0xF (regNib x) ign 0xA
  | .ldDtVx x => word 0xF (regNib x) 0x1 0x5
  | .ldStVx x ign => word 0xF (regNib x) ign 0x8
  | .addIVx x ign => word 0xF (regNib x) ign 0xE
  | .ldFVx x ign => word 0xF (regNib x) ign 0x9
  | .ldBVx x ign => word 0xF (regNib x) ign 0x3
  | .ldMemVx x => word 0xF (regNib x) 0x5 0x5
  | .ldVxMem x => word 0xF (regNib x) 0x6 0x5
  | .invalid w => w

/-! ### The host's view of the table -/

/-- The instruction word whose bits the host numbers from bit 0 of the first (here the only) word; every bit at `nbits`
and above is 0. -/
def tableWord (nbits w : Nat) : Word := BitVec.ofNat 16 (w % 2 ^ nbits)

/-- What the decoder reads from the two bytes of that word, laid out big-endian (20_memory.md R54). -/
def decodeTableWord (nbits w : Nat) : Option Instr :=
  (decodeBytes [hiByte (tableWord nbits w), loByte (tableWord nbits w)]).map Prod.fst

end Sys2Proof
end

