-- ==== Sys2Proof/Machine/State.lean ====
section
/-!
DEFINITION. The state of the core as plain data (10_state.md), the reasons a step can stop, and the state after reset
(10_state.md R45, 70_reset_and_hazards.md R260).
-/

namespace Sys2Proof.Machine

/-- STATUS, "a 2-bit register with three legal values" (10_state.md R36). "Value 3 is never held." -/
inductive Status where
  /-- RUN = 0: the core executes one instruction per STEP request. -/
  | run
  /-- WAIT_KEY = 1: an FX0A instruction is held (45_keypad.md R203). -/
  | waitKey
  /-- FAULTED = 2: the core has stopped on a fault (60_exceptions.md R226). -/
  | faulted
deriving DecidableEq, Repr

/-- The cause of a fault, held in FAULT_CAUSE: the legal values 0..8 of 60_exceptions.md R221, in order. -/
inductive FaultCause where
  | none | invalidOpcode | stackUnderflow | stackOverflow | fetchOutOfRange | memOutOfRange | fbOutOfRange
  | keyOutOfRange | glyphOutOfRange
deriving DecidableEq, Repr

/-- What `raise Fault(cause, info)` carries (00_scope.md R12). -/
structure Trap where
  cause : FaultCause
  info : Word
deriving DecidableEq, Repr

/-- The reasons for which a step of the model stops: none. The spec's own faults are taken as next states, with
STATUS = FAULTED and the fault registers written (60_exceptions.md R226), and a STEP of a faulted core "does nothing"
(R238). No constructor, so that no step can stop here: safe. -/
inductive Fault where
deriving DecidableEq, Repr

/-- The reasons for which a step of the model is refused. -/
inductive Refusal where
  /-- Raised only by an arm of `exec` whose instruction has no meaning yet (none is left): safe, the step stops where
  the hardware goes on. -/
  | notModelled (mnemonic : String)
deriving DecidableEq, Repr

/-- The main memory (10_state.md R35, 20_memory.md R50): the bytes that differ from the reset contents, and the
parameter FONT that fixes the reset contents of addresses 0..79 (20_memory.md R58), which nothing writes. -/
structure Memory where
  font : Config.Font
  cells : List Host.Cell
deriving DecidableEq, Repr

/-- The framebuffer, "2048 single-bit pixel cells arranged as 64×32" (10_state.md R34): 32 rows of 64 cells. -/
abbrev Framebuffer := Vector (Vector Bool 64) 32

/-- Every piece of state the spec gives the core (10_state.md), and the model's own `draws` and `tagHeld`. -/
structure State where
  /-- V0..VF (R20). -/
  v : Vector Byte 16
  /-- PC (R25). -/
  pc : Word
  /-- I (R28). -/
  i : Word
  /-- SP, "an integer 0..16 that counts the return addresses held" (R29). -/
  sp : Fin 17
  /-- STACK[0..15] (R30). -/
  stack : Vector Word 16
  /-- DT (R31). -/
  dt : Byte
  /-- ST (R31). -/
  st : Byte
  /-- DT_IDLE (R32). -/
  dtIdle : Bool
  /-- ST_IDLE (R32). -/
  stIdle : Bool
  /-- KEY[0..15] (R33). -/
  key : Vector Bool 16
  /-- FB[0..2047] (R34). -/
  fb : Framebuffer
  /-- MEM[0..4095] (R35). -/
  mem : Memory
  /-- STATUS (R36). -/
  status : Status
  /-- WAIT_X (R37), the register number of the FX0A being held. -/
  waitX : RegNum
  /-- FAULT_CAUSE (R38). -/
  faultCause : FaultCause
  /-- FAULT_PC (R39). -/
  faultPc : Word
  /-- FAULT_WORD (R40). -/
  faultWord : Word
  /-- FAULT_INFO (R41). -/
  faultInfo : Word
  /-- TAG (R42); meaningful only when `tagHeld`. -/
  tag : Word
  /-- Whether TAG holds a value: "a model treats TAG as holding no value until the first step completes" (R42;
  log entry 2). -/
  tagHeld : Bool
  /-- The model's own field: how many bytes CXKK has taken from the RAND input (60_exceptions.md R242; log entry 1). -/
  draws : Nat
deriving DecidableEq, Repr

/-- The state after reset with a given FONT (10_state.md R45, 70_reset_and_hazards.md R260). The spec gives TAG no
value: the 0x0000 here is a DESIGN CHOICE that `tagHeld := false` keeps from being read (log entry 2). The 0 of `draws`
is a DESIGN CHOICE (log entry 1). -/
def State.resetWith (font : Config.Font) : State where
  v := .replicate 16 0x00
  pc := 0x200
  i := 0x0000
  sp := 0
  stack := .replicate 16 0x0000
  dt := 0x00
  st := 0x00
  dtIdle := true
  stIdle := true
  key := .replicate 16 false
  fb := .replicate 32 (.replicate 64 false)
  mem := { font := font, cells := [] }
  status := .run
  waitX := 0
  faultCause := .none
  faultPc := 0x0000
  faultWord := 0x0000
  faultInfo := 0x0000
  tag := 0x0000
  tagHeld := false
  draws := 0

/-- The machine right after reset, with the spec's default font (log entry 3). -/
def State.reset : State := State.resetWith conventionalFont

end Sys2Proof.Machine
end

