-- ==== Sys2Proof/Machine/Codes.lean ====
section
/-!
DEFINITION. The numbers the host reads: the codes of STATUS (10_state.md R36) and of FAULT_CAUSE (60_exceptions.md
R221), and the operation tags (30_encoding.md R100).
-/

namespace Sys2Proof.Machine

/-- The value of the 2-bit register STATUS (10_state.md R36). -/
def statusCode : Status → BitVec 2
  | .run => 0
  | .waitKey => 1
  | .faulted => 2

/-- The value of the 4-bit register FAULT_CAUSE (60_exceptions.md R221). -/
def causeCode : FaultCause → BitVec 4
  | .none => 0
  | .invalidOpcode => 1
  | .stackUnderflow => 2
  | .stackOverflow => 3
  | .fetchOutOfRange => 4
  | .memOutOfRange => 5
  | .fbOutOfRange => 6
  | .keyOutOfRange => 7
  | .glyphOutOfRange => 8

/-- `Tag(op)`: the operation's source pattern with every operand field zero, and 0xFFFF for INVALID (30_encoding.md
R100). -/
def opTag : Op → Word
  | .CLS => 0x00E0
  | .RET => 0x00EE
  | .SYS => 0x0000
  | .JP => 0x1000
  | .CALL => 0x2000
  | .SE_IMM => 0x3000
  | .SNE_IMM => 0x4000
  | .SE_REG => 0x5000
  | .LD_IMM => 0x6000
  | .ADD_IMM => 0x7000
  | .LD_REG => 0x8000
  | .OR => 0x8001
  | .AND => 0x8002
  | .XOR => 0x8003
  | .ADD_REG => 0x8004
  | .SUB => 0x8005
  | .SHR => 0x8006
  | .SUBN => 0x8007
  | .SHL => 0x800E
  | .SNE_REG => 0x9000
  | .LD_I => 0xA000
  | .JP_V0 => 0xB000
  | .RND => 0xC000
  | .DRW => 0xD000
  | .SKP => 0xE09E
  | .SKNP => 0xE0A1
  | .LD_VX_DT => 0xF007
  | .LD_VX_K => 0xF00A
  | .LD_DT_VX => 0xF015
  | .LD_ST_VX => 0xF018
  | .ADD_I_VX => 0xF01E
  | .LD_F_VX => 0xF029
  | .LD_B_VX => 0xF033
  | .LD_MEM_VX => 0xF055
  | .LD_VX_MEM => 0xF065
  | .INVALID => 0xFFFF

end Sys2Proof.Machine
end

