-- ==== Sys2Proof/Machine/Memory.lean ====
section
/-!
DEFINITION. The main memory: one space of 4096 bytes (20_memory.md R50), held as the list of the bytes that differ from
the reset contents, addresses strictly rising. Accesses here are to single bytes (R56); the bounds are checked by the
operations of Ops.lean before any access (R53, 00_scope.md R12).
-/

namespace Sys2Proof.Machine

/-- What an address that no cell lists reads as: the reset contents, FONT at 0..79 and 0x00 elsewhere (10_state.md R35,
20_memory.md R58). -/
def Memory.unlisted (m : Memory) (a : Nat) : Byte :=
  if h : a < 80 then m.font[a] else 0x00

/-- The value of the cell listed for an address. -/
def cellsLookup (a : Nat) : List Host.Cell → Option Byte
  | [] => none
  | c :: cs => if c.1 = a then some c.2 else cellsLookup a cs

/-- The cells with the value of one address set, in rising order. -/
def cellsInsert (a : Nat) (b : Byte) : List Host.Cell → List Host.Cell
  | [] => [(a, b)]
  | c :: cs =>
    if c.1 < a then c :: cellsInsert a b cs
    else if c.1 = a then (a, b) :: cs
    else (a, b) :: c :: cs

/-- The cells without the cell of one address. -/
def cellsErase (a : Nat) : List Host.Cell → List Host.Cell
  | [] => []
  | c :: cs => if c.1 = a then cellsErase a cs else c :: cellsErase a cs

/-- `MEM[a]`. -/
def Memory.read (m : Memory) (a : Nat) : Byte :=
  (cellsLookup a m.cells).getD (m.unlisted a)

/-- `MEM[a] <- b`. An address above 0xFFF does not exist and nothing is written; every instruction and port has checked
its addresses before (20_memory.md R53, 60_exceptions.md R237). The font region is writable (20_memory.md R59). -/
def Memory.write (m : Memory) (a : Nat) (b : Byte) : Memory :=
  if 0xFFF < a then m
  else if b = m.unlisted a then { m with cells := cellsErase a m.cells }
  else { m with cells := cellsInsert a b m.cells }

/-- Bytes written at rising addresses from `a`. -/
def Memory.writeList (m : Memory) (a : Nat) : List Byte → Memory
  | [] => m
  | b :: bs => (m.write a b).writeList (a + 1) bs

/-- The bytes at `n` rising addresses from `a`. -/
def Memory.readList (m : Memory) (a : Nat) : Nat → List Byte
  | 0 => []
  | n + 1 => m.read a :: m.readList (a + 1) n

/-- The addresses of the cells rise strictly from at least `lo`, exist, and no cell holds what its address reads as
unlisted. -/
def cellsWf (m : Memory) (lo : Nat) : List Host.Cell → Bool
  | [] => true
  | c :: cs => decide (lo ≤ c.1) && decide (c.1 ≤ 0xFFF) && c.2 != m.unlisted c.1 && cellsWf m (c.1 + 1) cs

/-- The canonical form: equal memories are equal data. -/
def Memory.wf (m : Memory) : Bool := cellsWf m 0 m.cells

/-- The word at two addresses, big-endian (20_memory.md R54). -/
def Memory.readWord (m : Memory) (a : Nat) : Word := beWord (m.read a) (m.read (a + 1))

/-- A word stored at two addresses, big-endian (20_memory.md R54). -/
def Memory.writeWord (m : Memory) (a : Nat) (w : Word) : Memory := (m.write a (hiByte w)).write (a + 1) (loByte w)

end Sys2Proof.Machine
end

