-- ==== Sys2Proof/Machine/Ops.lean ====
section
/-!
DEFINITION. The named operations over the state that the meanings share: registers, checks, the return stack, the frame
of a step, taking a fault and resuming from one, the key lines, the framebuffer cells and the timers.
-/

namespace Sys2Proof.Machine

/-- The outcome of a step. -/
abbrev Outcome := Host.Outcome State Fault Refusal

/-- The execute part of an instruction (00_scope.md R14): it runs with PC at a + 2 and gives the new state or raises a
fault. -/
abbrev Body := State → Except Trap State

/-! ### Registers -/

/-- `V[x]` (00_scope.md R10). -/
def State.reg (s : State) (x : RegNum) : Byte := s.v[x]

/-- `V[x] <- b` (00_scope.md R10, 10_state.md R21). -/
def State.setReg (s : State) (x : RegNum) (b : Byte) : State := { s with v := s.v.set x b }

/-- The number of VF, the flag register (10_state.md R22). -/
abbrev vf : RegNum := 15

/-- `PC <- p`. -/
def State.setPc (s : State) (p : Word) : State := { s with pc := p }

/-- PC moved past one word: the fetch's advance (30_encoding.md R95) and a taken skip (41_conditional_skip.md R130). -/
def State.advance (s : State) : State := s.setPc (s.pc + 2)

/-- `I <- a`. -/
def State.setI (s : State) (a : Word) : State := { s with i := a }

/-- `TAG <- t`; from now on TAG holds a value (10_state.md R42). -/
def State.setTag (s : State) (t : Word) : State := { s with tag := t, tagHeld := true }

/-- `MEM[a]` of the state. -/
def State.readByte (s : State) (a : Nat) : Byte := s.mem.read a

/-! ### Checks -/

/-- `check(ok, cause, info)` and then the rest of the pseudocode (00_scope.md R12). -/
def checked (ok : Bool) (cause : FaultCause) (info : Word) (rest : Except Trap State) : Except Trap State :=
  if ok then rest else .error ⟨cause, info⟩

/-- `for a in as: check(a <= top, cause, a)` and then the rest: the first failing value of the list is reported
(60_exceptions.md R227). -/
def checkedAll (top : Nat) (cause : FaultCause) (as : List Nat) (rest : Except Trap State) : Except Trap State :=
  match as.find? (fun a => decide (top < a)) with
  | some a => .error ⟨cause, BitVec.ofNat 16 a⟩
  | none => rest

/-- The addresses b, b + 1, ..., b + n - 1, computed exactly (20_memory.md R51, R53). -/
def span (b n : Nat) : List Nat := (List.range n).map (b + ·)

/-! ### Skips -/

/-- A taken skip adds 2 to PC beyond the fetch's advance; a skip not taken adds nothing (41_conditional_skip.md R130). -/
def State.skipIf (s : State) (c : Bool) : State := if c then s.advance else s

/-! ### Faults -/

/-- `FaultEntry(cause, info)` of 60_exceptions.md R226: the architectural state of `s` stays, the core stops and the
fault registers are written. `a` is the address fetched from, `w` the word fetched. -/
def takeFault (t : Trap) (a w : Word) (s : State) : State :=
  { s with status := .faulted, faultCause := t.cause, faultPc := a, faultWord := w, faultInfo := t.info }

/-- A fetch fault: no word was fetched and TAG is unchanged (60_exceptions.md R226). -/
def takeFetchFault (s : State) : State := takeFault ⟨.fetchOutOfRange, s.pc⟩ s.pc 0x0000 s

/-- RESUME(p), the return from a fault: "allowed only in status FAULTED (elsewhere it does nothing)" (60_exceptions.md
R243). -/
def resume (p : Word) (s : State) : State :=
  match s.status with
  | .faulted => { s with pc := p, faultCause := .none, status := .run }
  | .run => s
  | .waitKey => s

/-! ### The frame of a step -/

/-- `Fetch` (30_encoding.md R95): both bytes of the word at PC must exist. -/
def fetch (s : State) : Option Word :=
  if s.pc.toNat + 1 ≤ 0xFFF then some (s.mem.readWord s.pc.toNat) else none

/-- The part of `Step` (30_encoding.md R95) after decode: PC moves to a + 2, the body runs, TAG is output. If the body
raises a fault the whole step is undone, the fault is entered from the state before the step, and TAG is still output
(60_exceptions.md R226). -/
def perform (ins : Instr) (body : Body) (s : State) : Outcome :=
  match body s.advance with
  | .ok t => .next (t.setTag (opTag ins.op))
  | .error t => .next ((takeFault t s.pc (encode ins) s).setTag (opTag ins.op))

/-- A word placed where `a` and `a + 1` are fetched from, and the core ready to fetch (log entry 5). -/
def placeWord (a : Nat) (w : Word) (s : State) : State := { s with mem := s.mem.writeWord a w, status := .run }

/-! ### The return stack (10_state.md R29, R30) -/

/-- CALL's push: `check(SP < 16, STACK_OVERFLOW, SP); STACK[SP] <- p; SP <- SP + 1`, then the rest
(40_control_flow.md R113). -/
def pushThen (p : Word) (rest : Body) (s : State) : Except Trap State :=
  if h : s.sp.val < 16 then
    rest { s with stack := s.stack.set s.sp.val p, sp := ⟨s.sp.val + 1, by omega⟩ }
  else .error ⟨.stackOverflow, BitVec.ofNat 16 s.sp.val⟩

/-- RET's pop: `check(SP > 0, STACK_UNDERFLOW, SP); SP <- SP - 1`, then the rest with `STACK[SP]`
(40_control_flow.md R111). -/
def popThen (rest : Word → Body) (s : State) : Except Trap State :=
  if h : 0 < s.sp.val then
    rest (s.stack[s.sp.val - 1]'(by have := s.sp.isLt; omega)) { s with sp := ⟨s.sp.val - 1, by have := s.sp.isLt; omega⟩ }
  else .error ⟨.stackUnderflow, BitVec.ofNat 16 s.sp.val⟩

/-! ### Key lines (10_state.md R33, 45_keypad.md R200) -/

/-- `KEY[k]`. -/
def State.keyLine (s : State) (k : RegNum) : Bool := s.key[k]

/-- `KEY[k] <- b`. -/
def State.setKey (s : State) (k : RegNum) (b : Bool) : State := { s with key := s.key.set k b }

/-- `min { k : KEY[k] = 1 }`, if some key line is asserted (45_keypad.md R203). -/
def lowestKey (s : State) : Option RegNum := (List.finRange 16).find? (fun k => s.keyLine k)

/-- A key number as the byte written into VX (45_keypad.md R203). -/
def keyByte (k : RegNum) : Byte := BitVec.ofNat 8 k.val

/-- `WaitComplete()` of 45_keypad.md R203: with STATUS = WAIT_KEY and some key line 1 the held FX0A completes, otherwise
nothing changes. -/
def waitComplete (s : State) : State :=
  match s.status, lowestKey s with
  | .waitKey, some k => { s.setReg s.waitX (keyByte k) with status := .run }
  | .waitKey, none => s
  | .run, _ => s
  | .faulted, _ => s

/-! ### The framebuffer (10_state.md R34, 44_display.md R190) -/

/-- `FB[n]`: the pixel at column n mod 64, row n / 64; a cell above 2047 does not exist and every use has checked its
index (44_display.md R192). -/
def Framebuffer.cell (f : Framebuffer) (n : Nat) : Bool :=
  if h : n < 2048 then f[n / 64][n % 64] else false

/-- `FB[n] <- b`. -/
def Framebuffer.setCell (f : Framebuffer) (n : Nat) (b : Bool) : Framebuffer :=
  if h : n < 2048 then f.set (n / 64) (f[n / 64].set (n % 64) b) else f

/-- Every cell 0 (44_display.md R191). -/
def Framebuffer.clear : Framebuffer := .replicate 32 (.replicate 64 false)

/-! ### Timers (10_state.md R31, R32) -/

/-- One timer's countdown, clamped at 0 (60_exceptions.md R233). -/
def countDown (c : Byte) : Byte := if c = 0 then 0 else c - 1

/-- `Tick()` of 60_exceptions.md R233, in every status; the idle flags are unchanged. -/
def tick (s : State) : State := { s with dt := countDown s.dt, st := countDown s.st }

/-- The output SOUND: 1 when ST != 0 (60_exceptions.md R234). -/
def sound (s : State) : Bool := s.st != 0

end Sys2Proof.Machine
end

