-- ==== Sys2Proof/Machine/Operands.lean ====
section
/-!
DEFINITION. The operand forms (30_encoding.md R78, R79): "every immediate is taken unsigned and zero-extended from its
field with no scaling or shift"; a register operand is the byte it holds; every data address is I plus a small offset
(43_index_memory.md R176), computed exactly (20_memory.md R53).
-/

namespace Sys2Proof.Machine

/-- NNN as an absolute 16-bit address: `zext_16(w[11:0])` (30_encoding.md R79). -/
def addrOf (nnn : Imm12) : Word := nnn.setWidth 16

/-- A byte widened with zeros to 16 bits: VX as an addend of I or PC, and as FAULT_INFO. -/
def zext16 (b : Byte) : Word := b.setWidth 16

/-- The base address of a data access: I as an exact integer (43_index_memory.md R176). -/
def dataBase (s : State) : Nat := s.i.toNat

/-- The registers V0..VX, in order, as FX55 stores them (43_index_memory.md R174). -/
def regsUpTo (s : State) (x : RegNum) : List Byte := s.v.toList.take (x.val + 1)

/-- V0, V1, ... overwritten in order by the bytes of a list, from register `k` on (43_index_memory.md R175). -/
def loadRegs (s : State) (k : Nat) : List Byte → State
  | [] => s
  | b :: bs => loadRegs { s with v := s.v.setIfInBounds k b } (k + 1) bs

/-- The linear index of a sprite's origin, `VX + 64 * VY`, exact (44_display.md R192). -/
def drawBase (s : State) (x y : RegNum) : Nat := (s.reg x).toNat + 64 * (s.reg y).toNat

/-- The cells of `n` sprite rows in the order the pseudocode visits them: `base + 64*r + c` (44_display.md R192). -/
def drawCells (base n : Nat) : List Nat :=
  (List.range n).flatMap fun r => (List.range 8).map fun c => base + 64 * r + c

/-- Bit c of a sprite row, "most significant bit first": `(s >> (7 - c)) & 1` (44_display.md R192). -/
def spriteBit (row : Byte) (c : Nat) : Bool := row.getLsbD (7 - c)

/-- The cells of `n` sprite rows, each with the sprite bit that falls on it; row r is the byte at b + r
(44_display.md R192). -/
def drawBits (m : Memory) (b base n : Nat) : List (Nat × Bool) :=
  (List.range n).flatMap fun r => (List.range 8).map fun c => (base + 64 * r + c, spriteBit (m.read (b + r)) c)

end Sys2Proof.Machine
end

