-- ==== Sys2Proof/Machine/Flags.lean ====
section
/-!
DEFINITION. The flag computations, all of them outputs to VF (10_state.md R22), and the order in which flag and result
are written (R23).
-/

namespace Sys2Proof.Machine

/-- A condition as the byte written to VF. -/
def flag (c : Bool) : Byte := if c then 1 else 0

/-- Carry of 8XY4: 1 if the exact sum exceeds 255 (42_load_alu.md R147). -/
def carryFlag (x y : Byte) : Byte := flag (decide (255 < x.toNat + y.toNat))

/-- No-borrow of 8XY5 and 8XY7: 1 if minuend >= subtrahend (42_load_alu.md R148, R150). -/
def noBorrowFlag (minuend subtrahend : Byte) : Byte := flag (decide (subtrahend.toNat ≤ minuend.toNat))

/-- The bit 8XY6 shifts out: `x & 1` (42_load_alu.md R149). -/
def shrFlag (x : Byte) : Byte := x &&& 1

/-- The bit 8XYE shifts out: `x >> 7` (42_load_alu.md R151). -/
def shlFlag (x : Byte) : Byte := x >>> 7

/-- The flag is written to VF first and the result to VX second, so with X = 0xF the result stays (10_state.md R23). -/
def State.setFlagThenReg (s : State) (f : Byte) (x : RegNum) (r : Byte) : State := (s.setReg vf f).setReg x r

/-- One bit of a draw (44_display.md R192): XOR into the cell; a sprite bit 1 on a cell holding 1 is a collision
(R193). -/
def drawBit (acc : Framebuffer × Bool) (cb : Nat × Bool) : Framebuffer × Bool :=
  let old := Framebuffer.cell acc.1 cb.1
  (Framebuffer.setCell acc.1 cb.1 (old ^^ cb.2), acc.2 || (cb.2 && old))

/-- The drawing loop of 44_display.md R192: the new framebuffer, and whether any collision occurred. -/
def drawLoop (f : Framebuffer) (bits : List (Nat × Bool)) : Framebuffer × Bool := bits.foldl drawBit (f, false)

end Sys2Proof.Machine
end

