-- ==== Sys2Proof/Machine/ControlFlow.lean ====
section
/-!
DEFINITION. Control flow: SYS, RET, JP, CALL, JP V0 (40_control_flow.md R110 to R115).
-/

namespace Sys2Proof.Machine

/-- SYS: no effect; PC keeps the value a + 2 (40_control_flow.md R110). -/
def execSys (nnn : Imm12) (s : State) : Outcome :=
  perform (.sys nnn) (fun t => .ok t) s

/-- RET: pop the return address into PC (40_control_flow.md R111). -/
def execRet (ign : Byte) (s : State) : Outcome :=
  perform (.ret ign) (popThen fun p t => .ok (t.setPc p)) s

/-- JP nnn: `PC <- NNN` (40_control_flow.md R112). -/
def execJp (nnn : Imm12) (s : State) : Outcome :=
  perform (.jp nnn) (fun t => .ok (t.setPc (addrOf nnn))) s

/-- CALL nnn: push PC, which holds a + 2, then `PC <- NNN` (40_control_flow.md R113). -/
def execCall (nnn : Imm12) (s : State) : Outcome :=
  perform (.call nnn) (fun t => pushThen t.pc (fun u => .ok (u.setPc (addrOf nnn))) t) s

/-- JP V0, nnn: `PC <- NNN + V[0]`, exact: the sum is at most 0x10FE (40_control_flow.md R114). -/
def execJpV0 (nnn : Imm12) (s : State) : Outcome :=
  perform (.jpV0 nnn) (fun t => .ok (t.setPc (addrOf nnn + zext16 (t.reg 0)))) s

end Sys2Proof.Machine
end

