-- ==== Sys2Proof/Machine/Display.lean ====
section
/-!
DEFINITION. Display: CLS and DRW (44_display.md R190 to R194).
-/

namespace Sys2Proof.Machine

/-- CLS: every cell 0, VF unchanged (44_display.md R191). -/
def execCls (ign : Byte) (s : State) : Outcome :=
  perform (.cls ign) (fun t => .ok { t with fb := Framebuffer.clear }) s

/-- DRW Vx, Vy, n (44_display.md R192): VX, VY and I are read before VF is written; the sprite addresses are checked
before the cells; VF is 1 if any collision occurred, else 0, also when N = 0. -/
def execDrw (x y : RegNum) (n : Fin 16) (s : State) : Outcome :=
  perform (.drw x y n)
    (fun t =>
      let b := dataBase t
      let base := drawBase t x y
      checkedAll 0xFFF .memOutOfRange (span b n.val)
        (checkedAll 2047 .fbOutOfRange (drawCells base n.val)
          (let d := drawLoop t.fb (drawBits t.mem b base n.val)
           .ok ({ t with fb := d.1 }.setReg vf (flag d.2))))) s

end Sys2Proof.Machine
end

