-- ==== Sys2Proof/Machine/IndexMemory.lean ====
section
/-!
DEFINITION. Index register and memory transfers (43_index_memory.md R170 to R176). Every address is checked before the
first write; I is unchanged by the transfers.
-/

namespace Sys2Proof.Machine

/-- LD I, nnn: `I <- NNN` (43_index_memory.md R170). -/
def execLdI (nnn : Imm12) (s : State) : Outcome :=
  perform (.ldI nnn) (fun t => .ok (t.setI (addrOf nnn))) s

/-- ADD I, Vx: `I <- (I + V[X]) mod 2^16`, VF unchanged (43_index_memory.md R171). -/
def execAddIVx (x : RegNum) (ign : Nibble) (s : State) : Outcome :=
  perform (.addIVx x ign) (fun t => .ok (t.setI (t.i + zext16 (t.reg x)))) s

/-- LD F, Vx: `check(d <= 0xF, GLYPH_OUT_OF_RANGE, d); I <- 5 * d` (43_index_memory.md R172). -/
def execLdFVx (x : RegNum) (ign : Nibble) (s : State) : Outcome :=
  perform (.ldFVx x ign)
    (fun t => checked (decide ((t.reg x).toNat ≤ 0xF)) .glyphOutOfRange (zext16 (t.reg x))
      (.ok (t.setI (5 * zext16 (t.reg x))))) s

/-- LD B, Vx: ones at I + 2, tens at I + 1, hundreds at I, after all three addresses are checked
(43_index_memory.md R173). -/
def execLdBVx (x : RegNum) (ign : Nibble) (s : State) : Outcome :=
  perform (.ldBVx x ign)
    (fun t =>
      let n := t.reg x
      let b := dataBase t
      checkedAll 0xFFF .memOutOfRange (span b 3)
        (.ok { t with mem := ((t.mem.write (b + 2) (n % 10)).write (b + 1) (n / 10 % 10)).write b (n / 100) })) s

/-- LD [I], Vx: V0..VX stored at I, I + 1, ..., I + X (43_index_memory.md R174). -/
def execLdMemVx (x : RegNum) (s : State) : Outcome :=
  perform (.ldMemVx x)
    (fun t => checkedAll 0xFFF .memOutOfRange (span (dataBase t) (x.val + 1))
      (.ok { t with mem := t.mem.writeList (dataBase t) (regsUpTo t x) })) s

/-- LD Vx, [I]: V0..VX loaded from I, I + 1, ..., I + X (43_index_memory.md R175). -/
def execLdVxMem (x : RegNum) (s : State) : Outcome :=
  perform (.ldVxMem x)
    (fun t => checkedAll 0xFFF .memOutOfRange (span (dataBase t) (x.val + 1))
      (.ok (loadRegs t 0 (t.mem.readList (dataBase t) (x.val + 1))))) s

end Sys2Proof.Machine
end

