-- ==== Sys2Proof/Machine/Invalid.lean ====
section
/-!
DEFINITION. The invalid-opcode operation (30_encoding.md R92, 60_exceptions.md R222).
-/

namespace Sys2Proof.Machine

/-- INVALID: `raise Fault(INVALID_OPCODE, w)`, no architectural state changes (30_encoding.md R92). -/
def execInvalid (w : Word) (s : State) : Outcome :=
  perform (.invalid w) (fun _ => .error ⟨.invalidOpcode, w⟩) s

end Sys2Proof.Machine
end

