-- ==== Sys2Proof/Machine/Keypad.lean ====
section
/-!
DEFINITION. Keypad: SKP, SKNP, LD Vx, K (45_keypad.md R200 to R203). A key line is read at the moment the instruction
executes.
-/

namespace Sys2Proof.Machine

/-- `check(k <= 0xF, KEY_OUT_OF_RANGE, k)` and then the rest with the line's value (45_keypad.md R201, R202). -/
def withKeyLine (k : Byte) (rest : Bool → Body) (s : State) : Except Trap State :=
  if h : k.toNat < 16 then rest (s.keyLine ⟨k.toNat, h⟩) s else .error ⟨.keyOutOfRange, zext16 k⟩

/-- SKP Vx: skip if `KEY[V[X]] = 1` (45_keypad.md R201). -/
def execSkp (x : RegNum) (ign : Nibble) (s : State) : Outcome :=
  perform (.skp x ign) (fun t => withKeyLine (t.reg x) (fun down u => .ok (u.skipIf down)) t) s

/-- SKNP Vx: skip if `KEY[V[X]] = 0` (45_keypad.md R202). -/
def execSknp (x : RegNum) (ign : Nibble) (s : State) : Outcome :=
  perform (.sknp x ign) (fun t => withKeyLine (t.reg x) (fun down u => .ok (u.skipIf (!down))) t) s

/-- LD Vx, K: with some key line 1 it completes at once with the lowest such line, otherwise the core holds
(45_keypad.md R203). The step that holds outputs TAG too (30_encoding.md R95, R99; log entry 4). -/
def execLdVxK (x : RegNum) (ign : Nibble) (s : State) : Outcome :=
  perform (.ldVxK x ign)
    (fun t =>
      match lowestKey t with
      | some k => .ok (t.setReg x (keyByte k))
      | none => .ok { t with waitX := x, status := .waitKey }) s

end Sys2Proof.Machine
end

