-- ==== Sys2Proof/Machine/LoadAlu.lean ====
section
/-!
DEFINITION. Loads, arithmetic and logic (42_load_alu.md R140 to R153). All operands are read before the first write
(R140); sums and differences wrap `mod 256`, which is the arithmetic of `Byte`.
-/

namespace Sys2Proof.Machine

/-- LD Vx, kk: `V[X] <- KK` (42_load_alu.md R141). -/
def execLdImm (x : RegNum) (kk : Byte) (s : State) : Outcome :=
  perform (.ldImm x kk) (fun t => .ok (t.setReg x kk)) s

/-- ADD Vx, kk: `V[X] <- (V[X] + KK) mod 256`, VF is no carry flag here (42_load_alu.md R142). -/
def execAddImm (x : RegNum) (kk : Byte) (s : State) : Outcome :=
  perform (.addImm x kk) (fun t => .ok (t.setReg x (t.reg x + kk))) s

/-- LD Vx, Vy: `V[X] <- V[Y]` (42_load_alu.md R143). -/
def execLdReg (x y : RegNum) (s : State) : Outcome :=
  perform (.ldReg x y) (fun t => .ok (t.setReg x (t.reg y))) s

/-- OR Vx, Vy: `V[X] <- V[X] | V[Y]` (42_load_alu.md R144). -/
def execOrReg (x y : RegNum) (s : State) : Outcome :=
  perform (.orReg x y) (fun t => .ok (t.setReg x (t.reg x ||| t.reg y))) s

/-- AND Vx, Vy: `V[X] <- V[X] & V[Y]` (42_load_alu.md R145). -/
def execAndReg (x y : RegNum) (s : State) : Outcome :=
  perform (.andReg x y) (fun t => .ok (t.setReg x (t.reg x &&& t.reg y))) s

/-- XOR Vx, Vy: `V[X] <- V[X] ^ V[Y]` (42_load_alu.md R146). -/
def execXorReg (x y : RegNum) (s : State) : Outcome :=
  perform (.xorReg x y) (fun t => .ok (t.setReg x (t.reg x ^^^ t.reg y))) s

/-- ADD Vx, Vy: VF = carry, then `V[X] <- (x + y) mod 256` (42_load_alu.md R147). -/
def execAddReg (x y : RegNum) (s : State) : Outcome :=
  perform (.addReg x y) (fun t => .ok (t.setFlagThenReg (carryFlag (t.reg x) (t.reg y)) x (t.reg x + t.reg y))) s

/-- SUB Vx, Vy: VF = no borrow, then `V[X] <- (x - y) mod 256` (42_load_alu.md R148). -/
def execSub (x y : RegNum) (s : State) : Outcome :=
  perform (.sub x y) (fun t => .ok (t.setFlagThenReg (noBorrowFlag (t.reg x) (t.reg y)) x (t.reg x - t.reg y))) s

/-- SHR Vx: VF = bit 0, then `V[X] <- x >> 1`; VY is not read (42_load_alu.md R149). -/
def execShr (x y : RegNum) (s : State) : Outcome :=
  perform (.shr x y) (fun t => .ok (t.setFlagThenReg (shrFlag (t.reg x)) x (t.reg x >>> 1))) s

/-- SUBN Vx, Vy: VF = no borrow, then `V[X] <- (y - x) mod 256` (42_load_alu.md R150). -/
def execSubn (x y : RegNum) (s : State) : Outcome :=
  perform (.subn x y) (fun t => .ok (t.setFlagThenReg (noBorrowFlag (t.reg y) (t.reg x)) x (t.reg y - t.reg x))) s

/-- SHL Vx: VF = bit 7, then `V[X] <- (x << 1) mod 256`; VY is not read (42_load_alu.md R151). -/
def execShl (x y : RegNum) (s : State) : Outcome :=
  perform (.shl x y) (fun t => .ok (t.setFlagThenReg (shlFlag (t.reg x)) x (t.reg x <<< 1))) s

/-- RND Vx, kk: `V[X] <- Rand8() & KK`, with a fresh byte of the RAND input at each execution (42_load_alu.md R152,
60_exceptions.md R242; log entry 1). -/
def execRnd (x : RegNum) (kk : Byte) (s : State) : Outcome :=
  perform (.rnd x kk)
    (fun t => .ok ({ t with draws := t.draws + 1 }.setReg x (Config.randByte t.draws &&& kk))) s

end Sys2Proof.Machine
end

