-- ==== Sys2Proof/Machine/Skips.lean ====
section
/-!
DEFINITION. Conditional skips: SE, SNE with an immediate and with a register (41_conditional_skip.md R130 to R134).
-/

namespace Sys2Proof.Machine

/-- SE Vx, kk: skip if `V[X] = KK` (41_conditional_skip.md R131). -/
def execSeImm (x : RegNum) (kk : Byte) (s : State) : Outcome :=
  perform (.seImm x kk) (fun t => .ok (t.skipIf (t.reg x == kk))) s

/-- SNE Vx, kk: skip if `V[X] != KK` (41_conditional_skip.md R132). -/
def execSneImm (x : RegNum) (kk : Byte) (s : State) : Outcome :=
  perform (.sneImm x kk) (fun t => .ok (t.skipIf (t.reg x != kk))) s

/-- SE Vx, Vy: skip if `V[X] = V[Y]`, bits 3:0 ignored (41_conditional_skip.md R133). -/
def execSeReg (x y : RegNum) (ign : Nibble) (s : State) : Outcome :=
  perform (.seReg x y ign) (fun t => .ok (t.skipIf (t.reg x == t.reg y))) s

/-- SNE Vx, Vy: skip if `V[X] != V[Y]`, bits 3:0 ignored (41_conditional_skip.md R134). -/
def execSneReg (x y : RegNum) (ign : Nibble) (s : State) : Outcome :=
  perform (.sneReg x y ign) (fun t => .ok (t.skipIf (t.reg x != t.reg y))) s

end Sys2Proof.Machine
end

