-- ==== Sys2Proof/Machine/TimerAccess.lean ====
section
/-!
DEFINITION. Timer access: LD Vx, DT; LD DT, Vx; LD ST, Vx (46_timers.md R210 to R212).
-/

namespace Sys2Proof.Machine

/-- LD Vx, DT: `V[X] <- DT` (46_timers.md R210). -/
def execLdVxDt (x : RegNum) (ign : Nibble) (s : State) : Outcome :=
  perform (.ldVxDt x ign) (fun t => .ok (t.setReg x t.dt)) s

/-- LD DT, Vx: `DT <- V[X]; DT_IDLE <- 0` (46_timers.md R211). -/
def execLdDtVx (x : RegNum) (s : State) : Outcome :=
  perform (.ldDtVx x) (fun t => .ok { t with dt := t.reg x, dtIdle := false }) s

/-- LD ST, Vx: `ST <- V[X]; ST_IDLE <- 0` (46_timers.md R212). -/
def execLdStVx (x : RegNum) (ign : Nibble) (s : State) : Outcome :=
  perform (.ldStVx x ign) (fun t => .ok { t with st := t.reg x, stIdle := false }) s

end Sys2Proof.Machine
end

