-- ==== Sys2Proof/Machine/Dispatch.lean ====
section
/-!
DEFINITION. Dispatch: each instruction to its meaning. `exec i s` is the part of `Step` (30_encoding.md R95) from the
advance of PC on, for an instruction fetched at the PC of `s`.
-/

namespace Sys2Proof.Machine

def exec (i : Instr) (s : State) : Host.Outcome State Fault Refusal :=
  match i with
  -- control flow (40_control_flow.md)
  | .sys nnn => Sys2Proof.Machine.execSys nnn s
  | .ret ign => Sys2Proof.Machine.execRet ign s
  | .jp nnn => Sys2Proof.Machine.execJp nnn s
  | .call nnn => Sys2Proof.Machine.execCall nnn s
  | .jpV0 nnn => Sys2Proof.Machine.execJpV0 nnn s
  -- conditional skips (41_conditional_skip.md)
  | .seImm x kk => Sys2Proof.Machine.execSeImm x kk s
  | .sneImm x kk => Sys2Proof.Machine.execSneImm x kk s
  | .seReg x y ign => Sys2Proof.Machine.execSeReg x y ign s
  | .sneReg x y ign => Sys2Proof.Machine.execSneReg x y ign s
  -- loads, arithmetic and logic (42_load_alu.md)
  | .ldImm x kk => Sys2Proof.Machine.execLdImm x kk s
  | .addImm x kk => Sys2Proof.Machine.execAddImm x kk s
  | .ldReg x y => Sys2Proof.Machine.execLdReg x y s
  | .orReg x y => Sys2Proof.Machine.execOrReg x y s
  | .andReg x y => Sys2Proof.Machine.execAndReg x y s
  | .xorReg x y => Sys2Proof.Machine.execXorReg x y s
  | .addReg x y => Sys2Proof.Machine.execAddReg x y s
  | .sub x y => Sys2Proof.Machine.execSub x y s
  | .shr x y => Sys2Proof.Machine.execShr x y s
  | .subn x y => Sys2Proof.Machine.execSubn x y s
  | .shl x y => Sys2Proof.Machine.execShl x y s
  | .rnd x kk => Sys2Proof.Machine.execRnd x kk s
  -- index register and memory transfers (43_index_memory.md)
  | .ldI nnn => Sys2Proof.Machine.execLdI nnn s
  | .addIVx x ign => Sys2Proof.Machine.execAddIVx x ign s
  | .ldFVx x ign => Sys2Proof.Machine.execLdFVx x ign s
  | .ldBVx x ign => Sys2Proof.Machine.execLdBVx x ign s
  | .ldMemVx x => Sys2Proof.Machine.execLdMemVx x s
  | .ldVxMem x => Sys2Proof.Machine.execLdVxMem x s
  -- display (44_display.md)
  | .cls ign => Sys2Proof.Machine.execCls ign s
  | .drw x y n => Sys2Proof.Machine.execDrw x y n s
  -- keypad (45_keypad.md)
  | .skp x ign => Sys2Proof.Machine.execSkp x ign s
  | .sknp x ign => Sys2Proof.Machine.execSknp x ign s
  | .ldVxK x ign => Sys2Proof.Machine.execLdVxK x ign s
  -- timer access (46_timers.md)
  | .ldVxDt x ign => Sys2Proof.Machine.execLdVxDt x ign s
  | .ldDtVx x => Sys2Proof.Machine.execLdDtVx x s
  | .ldStVx x ign => Sys2Proof.Machine.execLdStVx x ign s
  -- the invalid-opcode operation (30_encoding.md R92), with the whole word
  | .invalid w => Sys2Proof.Machine.execInvalid w s

end Sys2Proof.Machine
end

