-- ==== Sys2Proof/Machine/Step.lean ====
section
/-!
DEFINITION. One step of the core, taken at a STEP request (60_exceptions.md R238).
-/

namespace Sys2Proof.Machine

/-- In status RUN the core fetches, decodes and executes one instruction (30_encoding.md R95); in WAIT_KEY it completes
the held FX0A if a key line is 1 and does nothing otherwise (45_keypad.md R203); in FAULTED it does nothing
(60_exceptions.md R238). -/
def step (s : State) : Host.Outcome State Fault Refusal :=
  match s.status with
  | .run =>
    match fetch s with
    | some w => exec (decode w) s
    | none => .next (takeFetchFault s)
  | .waitKey => .next (waitComplete s)
  | .faulted => .next s

/-- The state with the host's instruction word at PC and the core ready to fetch it (log entry 5). Where PC is above
0xFFE no word can be fetched, and the step takes the fetch fault whatever is stored. -/
def State.withFetchWord (s : State) (nbits w : Nat) : State := placeWord s.pc.toNat (tableWord nbits w) s

end Sys2Proof.Machine
end

