-- ==== Sys2Proof/Machine/Ports.lean ====
section
/-!
DEFINITION. The agents' actions on the core: the host's ports and the timer driver's tick (60_exceptions.md R236 to
R244). Each is one atomic step between core steps, and any interleaving is a legal run (R232). RAND is no action: it is
the input `Config.randByte` (R242).
-/

namespace Sys2Proof.Machine

/-- One action of the host or of the timer driver. -/
inductive PortAction where
  /-- RESET (60_exceptions.md R236). -/
  | reset
  /-- LOAD(a, v) (R237). -/
  | load (a : Nat) (b : Byte)
  /-- STEP (R238). -/
  | step
  /-- KEY_SET(k) (R239). -/
  | keySet (k : RegNum)
  /-- KEY_CLEAR(k) (R239). -/
  | keyClear (k : RegNum)
  /-- KEY_TOGGLE(k) (R239). -/
  | keyToggle (k : RegNum)
  /-- FB_READ(n) (R240). -/
  | fbRead (n : Fin 2048)
  /-- STATUS_READ (R241). -/
  | statusRead
  /-- RESUME(p) (R243). -/
  | resume (p : Word)
  /-- TICK (R244). -/
  | tick
deriving DecidableEq, Repr

/-- What STATUS_READ returns (60_exceptions.md R241). TAG is returned only when it holds a value (10_state.md R42). -/
structure StatusReport where
  status : BitVec 2
  waitX : BitVec 4
  faultCause : BitVec 4
  faultPc : Word
  faultWord : Word
  faultInfo : Word
  tag : Option Word
  sound : Bool
  dt : Byte
  st : Byte
  dtIdle : Bool
  stIdle : Bool
deriving DecidableEq, Repr

/-- What a port reports to the host. -/
inductive PortReply where
  /-- Nothing to report. -/
  | done
  /-- LOAD of an address above 0xFFF: "the port changes nothing and reports an error to the host" (R237). -/
  | loadError
  /-- FB_READ's cell (R240). -/
  | cell (b : Bool)
  /-- STATUS_READ's registers (R241). -/
  | report (r : StatusReport)
deriving DecidableEq, Repr

/-- `Reset()` of 70_reset_and_hazards.md R260 on a machine with the FONT it was made with: "TAG is not written: it holds
no value until the first step". The RAND input is outside the core and goes on (60_exceptions.md R242). -/
def resetPort (s : State) : State :=
  { State.resetWith s.mem.font with tag := s.tag, draws := s.draws }

/-- LOAD(a, v): one byte of memory; above 0xFFF nothing changes (60_exceptions.md R237). -/
def loadPort (a : Nat) (b : Byte) (s : State) : State := { s with mem := s.mem.write a b }

/-- A key line changed by the host; "when the core is in WAIT_KEY, the wait is re-examined" (60_exceptions.md R239). -/
def keyPort (k : RegNum) (b : Bool) (s : State) : State := waitComplete (s.setKey k b)

/-- The registers STATUS_READ returns (60_exceptions.md R241). -/
def statusReport (s : State) : StatusReport where
  status := statusCode s.status
  waitX := regNib s.waitX
  faultCause := causeCode s.faultCause
  faultPc := s.faultPc
  faultWord := s.faultWord
  faultInfo := s.faultInfo
  tag := if s.tagHeld then some s.tag else none
  sound := sound s
  dt := s.dt
  st := s.st
  dtIdle := s.dtIdle
  stIdle := s.stIdle

/-- The effect of an action on the state. -/
def act (a : PortAction) (s : State) : Outcome :=
  match a with
  | .reset => .next (resetPort s)
  | .load a b => .next (loadPort a b s)
  | .step => Sys2Proof.Machine.step s
  | .keySet k => .next (keyPort k true s)
  | .keyClear k => .next (keyPort k false s)
  | .keyToggle k => .next (keyPort k (!s.keyLine k) s)
  | .fbRead _ => .next s
  | .statusRead => .next s
  | .resume p => .next (Sys2Proof.Machine.resume p s)
  | .tick => .next (Sys2Proof.Machine.tick s)

/-- What an action reports to the host. -/
def reply (a : PortAction) (s : State) : PortReply :=
  match a with
  | .load a _ => if a ≤ 0xFFF then .done else .loadError
  | .fbRead n => .cell (Framebuffer.cell s.fb n.val)
  | .statusRead => .report (statusReport s)
  | .reset => .done
  | .step => .done
  | .keySet _ => .done
  | .keyClear _ => .done
  | .keyToggle _ => .done
  | .resume _ => .done
  | .tick => .done

/-- A run: any list of actions of the agents, in order (60_exceptions.md R232). -/
def runActions : List PortAction → State → Outcome
  | [], s => .next s
  | a :: as, s =>
    match act a s with
    | .next t => runActions as t
    | .fault r => .fault r
    | .refused r => .refused r

end Sys2Proof.Machine
end

