-- ==== Sys2Proof/Safety.lean ====
section
/-!
DEFINITION. The terms in which claims speak of a run: its good and bad ends (70_reset_and_hazards.md R270), the
invariant of the state, and the frames of the instructions.
-/

namespace Sys2Proof.Machine

/-- A good end: STATUS = RUN and "the word at PC is 1NNN with NNN = PC" (70_reset_and_hazards.md R270). -/
def State.endsWell (s : State) : Bool :=
  s.status == .run &&
    match fetch s with
    | some w => nib3 w == 0x1 && addrOf (immNNN w) == s.pc
    | none => false

/-- A bad end: "the first state with STATUS = FAULTED" (70_reset_and_hazards.md R270). -/
def State.endsBadly (s : State) : Bool := s.status == .faulted

/-- The invariant of the state:
the memory is in its canonical form;
"while a timer's idle flag is 1 its count is 0" (10_state.md R32);
FAULT_CAUSE is a fault's exactly while STATUS = FAULTED (10_state.md R36, R38);
no key line is 1 while an FX0A is held, since the hold is re-examined at every key action (45_keypad.md R203);
a return address is at most 0x1000 (40_control_flow.md R111). -/
abbrev State.Inv (s : State) : Prop :=
  s.mem.wf = true ∧
  (s.dtIdle = true → s.dt = 0) ∧
  (s.stIdle = true → s.st = 0) ∧
  (s.status = .faulted ↔ s.faultCause ≠ .none) ∧
  (s.status = .waitKey → ∀ k : RegNum, s.key[k] = false) ∧
  (∀ j : Fin 16, s.stack[j].toNat ≤ 0x1000)

/-! ### Frames: the state after differs from the state before only in the fields named -/

/-- Only PC and TAG. -/
def OnlyPc (s t : State) : Prop := t = { s with pc := t.pc, tag := t.tag, tagHeld := t.tagHeld }

/-- Only general registers, PC and TAG. -/
def OnlyRegs (s t : State) : Prop := t = { s with v := t.v, pc := t.pc, tag := t.tag, tagHeld := t.tagHeld }

/-- Only I, PC and TAG. -/
def OnlyI (s t : State) : Prop := t = { s with i := t.i, pc := t.pc, tag := t.tag, tagHeld := t.tagHeld }

/-- Only SP, the stack slots, PC and TAG. -/
def OnlyStack (s t : State) : Prop :=
  t = { s with sp := t.sp, stack := t.stack, pc := t.pc, tag := t.tag, tagHeld := t.tagHeld }

/-- Only memory, PC and TAG. -/
def OnlyMem (s t : State) : Prop := t = { s with mem := t.mem, pc := t.pc, tag := t.tag, tagHeld := t.tagHeld }

/-- Only the framebuffer, PC and TAG. -/
def OnlyFb (s t : State) : Prop := t = { s with fb := t.fb, pc := t.pc, tag := t.tag, tagHeld := t.tagHeld }

/-- Only the framebuffer, general registers, PC and TAG. -/
def OnlyFbRegs (s t : State) : Prop :=
  t = { s with fb := t.fb, v := t.v, pc := t.pc, tag := t.tag, tagHeld := t.tagHeld }

/-- Only the delay timer, PC and TAG. -/
def OnlyDt (s t : State) : Prop :=
  t = { s with dt := t.dt, dtIdle := t.dtIdle, pc := t.pc, tag := t.tag, tagHeld := t.tagHeld }

/-- Only the sound timer, PC and TAG. -/
def OnlySt (s t : State) : Prop :=
  t = { s with st := t.st, stIdle := t.stIdle, pc := t.pc, tag := t.tag, tagHeld := t.tagHeld }

/-- Every general register but those of a list is unchanged. -/
def OtherRegs (xs : List RegNum) (s t : State) : Prop := ∀ r : RegNum, r ∉ xs → t.v[r] = s.v[r]

/-- The state in which an instruction's fault leaves the core (60_exceptions.md R226): the state before the step, stopped,
with the fault registers and TAG written. -/
def faultedBy (ins : Instr) (cause : FaultCause) (info : Word) (s : State) : State :=
  { s with
    status := .faulted, faultCause := cause, faultPc := s.pc, faultWord := encode ins, faultInfo := info,
    tag := opTag ins.op, tagHeld := true }

/-- The registers an instruction may write: its destination, and VF where it is a flag writer (10_state.md R22, R24). -/
def writesReg (ins : Instr) (r : RegNum) : Bool :=
  match ins with
  | .ldImm x _ => r == x
  | .addImm x _ => r == x
  | .ldReg x _ => r == x
  | .orReg x _ => r == x
  | .andReg x _ => r == x
  | .xorReg x _ => r == x
  | .addReg x _ => r == x || r == vf
  | .sub x _ => r == x || r == vf
  | .shr x _ => r == x || r == vf
  | .subn x _ => r == x || r == vf
  | .shl x _ => r == x || r == vf
  | .rnd x _ => r == x
  | .ldVxMem x => decide (r ≤ x)
  | .drw _ _ _ => r == vf
  | .ldVxK x _ => r == x
  | .ldVxDt x _ => r == x
  | .sys _ => false
  | .ret _ => false
  | .jp _ => false
  | .call _ => false
  | .jpV0 _ => false
  | .seImm _ _ => false
  | .sneImm _ _ => false
  | .seReg _ _ _ => false
  | .sneReg _ _ _ => false
  | .ldI _ => false
  | .addIVx _ _ => false
  | .ldFVx _ _ => false
  | .ldBVx _ _ => false
  | .ldMemVx _ => false
  | .cls _ => false
  | .skp _ _ => false
  | .sknp _ _ => false
  | .ldDtVx _ => false
  | .ldStVx _ _ => false
  | .invalid _ => false

end Sys2Proof.Machine
end

