-- ==== Sys2Proof/Certificates/Slice0/Obligations.lean ====
section
/-!
DEFINITION. The statements for the provers. Each docstring says which rule of spec/ the statement formalises. A clause
that rests on a choice the spec marks as its own ("decision", "derived", "from general knowledge") or on a log entry of
this model is named as such. Statements about `exec` are about an instruction fetched at the PC of the state; what a step
adds around it is `Obligations.StepFetchesDecodesExecutes`.
-/

open Sys2Proof Sys2Proof.Machine

/-! ### Encoding -/

/-- Derived from R80, R82 to R87, R90, R92: decoding the word of any well-formed instruction gives it back, every
operand included, and every ignored bit, which the model keeps in the instruction (log entry 8). -/
def Obligations.DecodeOfEncodeIsIdentity : Prop :=
  ∀ i : Instr, i.wf = true → decode (encode i) = i

/-- Derived from R81, R89: every word decodes to a well-formed instruction whose word it is, so the decoder drops no
bit. That the ignored bits of R90 come back too is the model's choice to keep them in the instruction (log entry 8): by
R82 to R90 alone, words that differ in them are one operation. -/
def Obligations.EncodeOfDecodeIsIdentity : Prop :=
  ∀ w : Word, (decode w).wf = true ∧ encode (decode w) = w

/-- Derived from R84 to R88: the words of INVALID are exactly those with high nibble 0x8, 0xE or 0xF and an unmapped low
(or, under 0xF and 0x5, middle) nibble. -/
def Obligations.InvalidWordsClassified : Prop :=
  ∀ w : Word,
    ((decode w).op = .INVALID ↔
      (w.toNat / 4096 = 0x8 ∧ w.toNat % 16 ∈ [0x8, 0x9, 0xA, 0xB, 0xC, 0xD, 0xF]) ∨
      (w.toNat / 4096 = 0xE ∧ w.toNat % 16 ≠ 0x1 ∧ w.toNat % 16 ≠ 0xE) ∨
      (w.toNat / 4096 = 0xF ∧ w.toNat % 16 ∈ [0x0, 0x1, 0x2, 0x4, 0x6, 0xB, 0xC, 0xD, 0xF]) ∨
      (w.toNat / 4096 = 0xF ∧ w.toNat % 16 = 0x5 ∧ w.toNat / 16 % 16 ∉ [0x1, 0x5, 0x6])) ∧
    ((decode w).op = .INVALID → decode w = .invalid w)

/-- Derived from R82 to R87 (95_test_vectors.md V-DEC): one written-out word of each family decodes as the spec says. -/
def Obligations.SpecWordsDecode : Prop :=
  decode 0x0AB0 = .cls 0xAB ∧ decode 0x0FFE = .ret 0xFF ∧ decode 0x00ED = .sys 0x0ED ∧ decode 0x2FFF = .call 0xFFF ∧
  decode 0x5AB7 = .seReg 0xA 0xB 0x7 ∧ decode 0x7FFF = .addImm 0xF 0xFF ∧ decode 0x8ABE = .shl 0xA 0xB ∧
  decode 0x8ABA = .invalid 0x8ABA ∧ decode 0xD235 = .drw 2 3 5 ∧ decode 0xE10E = .skp 1 0x0 ∧
  decode 0xF1F7 = .ldVxDt 1 0xF ∧ decode 0xF165 = .ldVxMem 1 ∧ decode 0xF125 = .invalid 0xF125

/-! ### The step -/

/-- R54: the byte at the lower address is the most significant byte of the word fetched, the byte at a + 1 the least
significant one. -/
def Obligations.FetchIsBigEndian : Prop :=
  ∀ s : State, s.pc.toNat ≤ 0xFFE →
    ∃ w : Word, fetch s = some w ∧
      w.extractLsb' 8 8 = s.readByte s.pc.toNat ∧ w.extractLsb' 0 8 = s.readByte (s.pc.toNat + 1)

/-- Derived from R95 (decision D1) and R226 (decision D36): a step in status RUN is the meaning of the instruction
decoded from the two bytes at PC; where they do not both exist it takes the fetch fault, with no word and TAG
unchanged. -/
def Obligations.StepFetchesDecodesExecutes : Prop :=
  ∀ s : State, s.status = .run →
    (s.pc.toNat ≤ 0xFFE →
      ∀ i : Instr, decode (beWord (s.readByte s.pc.toNat) (s.readByte (s.pc.toNat + 1))) = i → step s = exec i s) ∧
    (0xFFE < s.pc.toNat →
      step s = .next { s with
        status := .faulted, faultCause := .fetchOutOfRange, faultPc := s.pc, faultWord := 0x0000, faultInfo := s.pc })

/-- Derived from R238 (decisions D5, D19, D27): STEP performs a step in RUN, completes the held FX0A in WAIT_KEY when a
key line is 1 and does nothing otherwise, and does nothing in FAULTED. -/
def Obligations.StepPortByStatus : Prop :=
  ∀ s : State,
    (s.status = .run →
      act .step s = match fetch s with
        | some w => exec (decode w) s
        | none => .next (takeFetchFault s)) ∧
    (s.status = .waitKey → ∀ k : RegNum, s.key[k] = true → (∀ j : RegNum, j < k → s.key[j] = false) →
      act .step s = .next { s with v := s.v.set s.waitX (BitVec.ofNat 8 k.val), status := .run }) ∧
    (s.status = .waitKey → (∀ k : RegNum, s.key[k] = false) → act .step s = .next s) ∧
    (s.status = .faulted → act .step s = .next s)

/-- Derived from R97 for the steps and R236 to R244 for the port actions: every step and every port action answers a
next state (a fault is one: log entry 7), and no operation but LD_VX_K leaves the core held. -/
def Obligations.StepsAnswerAndOnlyKeyWaitHolds : Prop :=
  (∀ s : State, ∃ t, step s = .next t) ∧
  (∀ (a : PortAction) (s : State), ∃ t, act a s = .next t) ∧
  (∀ (i : Instr) (s t : State), s.status = .run → exec i s = .next t → t.status = .waitKey → i.op = .LD_VX_K)

/-- Derived from R26, R95 (decision D1): an instruction other than a jump, call, return or skip that does not fault
leaves PC at a + 2. -/
def Obligations.OtherInstructionsAdvancePcByTwo : Prop :=
  ∀ (i : Instr) (s t : State), s.status = .run → exec i s = .next t → t.status ≠ .faulted →
    i.op ∉ [.RET, .JP, .CALL, .JP_V0, .SE_IMM, .SNE_IMM, .SE_REG, .SNE_REG, .SKP, .SKNP] → t.pc = s.pc + 2

/-- Derived from R99, R100 (decision D23; log entry 4 for a hold): every instruction outputs a tag, and two
instructions output the same tag exactly when they are the same operation. -/
def Obligations.TagNamesTheOperation : Prop :=
  ∀ (i j : Instr) (s s' t t' : State), exec i s = .next t → exec j s' = .next t' →
    t.tagHeld = true ∧ (t.tag = t'.tag ↔ i.op = j.op)

/-- Derived from R27: from a PC of at most 0x10FE and return addresses of at most 0x1000, a step leaves PC at most
0x10FE, so PC never wraps. -/
def Obligations.PcNeverWraps : Prop :=
  ∀ s t : State, s.pc.toNat ≤ 0x10FE → (∀ j : Fin 16, s.stack[j].toNat ≤ 0x1000) → step s = .next t →
    t.pc.toNat ≤ 0x10FE

/-! ### Faults -/

/-- Derived from R226, R12 (decisions D3, D36): an instruction that faults leaves every architectural element as it was,
PC at the instruction, and writes STATUS, the four fault registers and TAG. -/
def Obligations.FaultsArePrecise : Prop :=
  ∀ (i : Instr) (s t : State), s.status = .run → exec i s = .next t → t.status = .faulted →
    t.faultCause ≠ .none ∧ t = faultedBy i t.faultCause t.faultInfo s

/-- Derived from R221, R227 (decisions D4, D37): an instruction that faults does so with a cause of its operation,
under the condition of that cause, and with its FAULT_INFO: the word; SP; the lowest address of the access that does
not exist; the lowest cell that does not exist, where every sprite address exists; VX. -/
def Obligations.FaultCausesByOperation : Prop :=
  ∀ (i : Instr) (s t : State), s.status = .run → exec i s = .next t → t.status = .faulted →
    (t.faultCause = .invalidOpcode ∧ ∃ w, i = .invalid w ∧ t.faultInfo = w) ∨
    (t.faultCause = .stackUnderflow ∧ i.op = .RET ∧ s.sp.val = 0 ∧ t.faultInfo = 0) ∨
    (t.faultCause = .stackOverflow ∧ i.op = .CALL ∧ s.sp.val = 16 ∧ t.faultInfo = 16) ∨
    (t.faultCause = .memOutOfRange ∧ t.faultInfo.toNat = max (dataBase s) 0x1000 ∧
      ((∃ x y n, i = .drw x y n ∧ n.val ≠ 0 ∧ 0xFFF < dataBase s + (n.val - 1)) ∨
        (∃ x ign, i = .ldBVx x ign ∧ 0xFFF < dataBase s + 2) ∨
        (∃ x, i = .ldMemVx x ∧ 0xFFF < dataBase s + x.val) ∨
        (∃ x, i = .ldVxMem x ∧ 0xFFF < dataBase s + x.val))) ∨
    (t.faultCause = .fbOutOfRange ∧ ∃ x y n, i = .drw x y n ∧ dataBase s + n.val ≤ 0x1000 ∧
      (∃ r c, r < n.val ∧ c < 8 ∧ t.faultInfo.toNat = drawBase s x y + 64 * r + c) ∧ 2047 < t.faultInfo.toNat ∧
      ∀ r c, r < n.val → c < 8 → 2047 < drawBase s x y + 64 * r + c →
        t.faultInfo.toNat ≤ drawBase s x y + 64 * r + c) ∨
    (t.faultCause = .keyOutOfRange ∧ ∃ x ign, (i = .skp x ign ∨ i = .sknp x ign) ∧ 0xF < (s.v[x]).toNat ∧
      t.faultInfo.toNat = (s.v[x]).toNat) ∨
    (t.faultCause = .glyphOutOfRange ∧ ∃ x ign, i = .ldFVx x ign ∧ 0xF < (s.v[x]).toNat ∧
      t.faultInfo.toNat = (s.v[x]).toNat)

/-- Derived from R92 (decisions D3, D4, D23): a word of INVALID changes no architectural state and raises
INVALID_OPCODE with the word, its tag is 0xFFFF and PC stays at its address. -/
def Obligations.InvalidOpcodeFaults : Prop :=
  ∀ (w : Word) (s : State),
    exec (.invalid w) s = .next { s with
      status := .faulted, faultCause := .invalidOpcode, faultPc := s.pc, faultWord := w, faultInfo := w,
      tag := 0xFFFF, tagHeld := true }

/-! ### Which instruction writes and reads which state -/

/-- Derived from R22, R24: an instruction writes no general register but its destination and, if it is one of the six
flag writers, VF. -/
def Obligations.RegistersWrittenOnlyAsNamed : Prop :=
  ∀ (i : Instr) (s t : State) (r : RegNum), exec i s = .next t → t.v[r] ≠ s.v[r] → writesReg i r = true

/-- Derived from R28 to R42, R51, R194, R99 and R226 (decisions D3, D4, D20, D23, D33): every state element but the
general registers and PC, which every instruction or its operands name, is written by the instructions that the spec
names and by no other. STATUS changes only on fault entry or in a hold, and the four fault registers are written only
on fault entry. A byte of memory that changes is one that FX33 or FX55 stores to; no instruction writes a key line. The
clauses on FONT (log entry 3), on `tagHeld` (log entry 2; in a hold log entry 4 for TAG) and on the counter `draws`
(log entry 1) are about the model's own fields. -/
def Obligations.StateElementsHaveTheirWriters : Prop :=
  ∀ (i : Instr) (s t : State), exec i s = .next t →
    (t.i ≠ s.i → i.op ∈ [.LD_I, .ADD_I_VX, .LD_F_VX]) ∧
    (t.sp ≠ s.sp → i.op ∈ [.CALL, .RET]) ∧
    (t.stack ≠ s.stack → i.op = .CALL) ∧
    (t.dt ≠ s.dt ∨ t.dtIdle ≠ s.dtIdle → i.op = .LD_DT_VX) ∧
    (t.st ≠ s.st ∨ t.stIdle ≠ s.stIdle → i.op = .LD_ST_VX) ∧
    t.key = s.key ∧
    (t.fb ≠ s.fb → i.op ∈ [.CLS, .DRW]) ∧
    (t.mem ≠ s.mem → i.op ∈ [.LD_B_VX, .LD_MEM_VX]) ∧
    (∀ a, t.readByte a ≠ s.readByte a →
      (i.op = .LD_B_VX ∧ dataBase s ≤ a ∧ a ≤ dataBase s + 2) ∨
      (∃ x : RegNum, i = .ldMemVx x ∧ dataBase s ≤ a ∧ a ≤ dataBase s + x.val)) ∧
    t.mem.font = s.mem.font ∧
    (t.waitX ≠ s.waitX → i.op = .LD_VX_K) ∧
    (t.draws ≠ s.draws → i.op = .RND) ∧
    (t.status ≠ s.status → t.status = .faulted ∨ (t.status = .waitKey ∧ i.op = .LD_VX_K)) ∧
    (t.status ≠ .faulted →
      t.faultCause = s.faultCause ∧ t.faultPc = s.faultPc ∧ t.faultWord = s.faultWord ∧ t.faultInfo = s.faultInfo) ∧
    t.tag = opTag i.op ∧ t.tagHeld = true

/-- Derived from R32, R43 and 10_state.md section 9: no instruction observes the idle flags, WAIT_X, the fault
registers or TAG; changing them changes nothing else of what an instruction does. Only SKP, SKNP and LD_VX_K observe
the key lines (R33). -/
def Obligations.HostStateIsUnobserved : Prop :=
  (∀ (i : Instr) (s : State) (d e h : Bool) (x : RegNum) (c : FaultCause) (p w f g : Word),
    ∃ t t' : State, exec i s = .next t ∧
      exec i { s with
        dtIdle := d, stIdle := e, waitX := x, faultCause := c, faultPc := p, faultWord := w, faultInfo := f, tag := g,
        tagHeld := h } = .next t' ∧
      t' = { t with
        dtIdle := t'.dtIdle, stIdle := t'.stIdle, waitX := t'.waitX, faultCause := t'.faultCause,
        faultPc := t'.faultPc, faultWord := t'.faultWord, faultInfo := t'.faultInfo }) ∧
  (∀ (i : Instr) (s : State) (k : Vector Bool 16), i.op ∉ [.SKP, .SKNP, .LD_VX_K] →
    ∃ t : State, exec i s = .next t ∧ exec i { s with key := k } = .next { t with key := k })

/-- Derived from R30: "A slot at index >= SP keeps its stale value, which no instruction can observe." Two states that
agree but for the slots at SP and above stay so. -/
def Obligations.StaleSlotsAreUnobservable : Prop :=
  ∀ (i : Instr) (s : State) (stk : Vector Word 16), (∀ j : Fin 16, j.val < s.sp.val → stk[j] = s.stack[j]) →
    ∃ t t' : State, exec i s = .next t ∧ exec i { s with stack := stk } = .next t' ∧
      t' = { t with stack := t'.stack } ∧ ∀ j : Fin 16, j.val < t.sp.val → t'.stack[j] = t.stack[j]

/-! ### Control flow -/

/-- Derived from R110 (decision D34), R26 and R100 (decision D23): every word of high nibble 0x0 whose low nibble is
neither 0x0 nor 0xE is SYS, which changes nothing but PC and TAG. -/
def Obligations.SysHasNoEffect : Prop :=
  (∀ nnn : Imm12, nnn.toNat % 16 ≠ 0x0 → nnn.toNat % 16 ≠ 0xE → decode (wordNNN 0x0 nnn) = .sys nnn) ∧
  ∀ (nnn : Imm12) (s : State),
    exec (.sys nnn) s = .next { s with pc := s.pc + 2, tag := 0x0000, tagHeld := true }

/-- Derived from R111 (decisions D3, D4, D7): RET pops the return address into PC; with an empty stack it faults
STACK_UNDERFLOW with info 0 and changes no architectural state. Every word 0x0??E is RET. A popped address is used as
is; above 0xFFE it faults at the next fetch, and it is at most 0x1000 where every slot is. -/
def Obligations.RetPopsOrUnderflows : Prop :=
  (∀ ign : Byte, decode (wordIgn 0x0 ign 0xE) = .ret ign) ∧
  ∀ (ign : Byte) (s : State),
    (∀ h : 0 < s.sp.val, ∃ t, exec (.ret ign) s = .next t ∧ t.sp.val = s.sp.val - 1 ∧ t.stack = s.stack ∧
      t.pc = s.stack[s.sp.val - 1]'(by have := s.sp.isLt; omega) ∧ OnlyStack s t ∧
      (s.status = .run → 0xFFE < t.pc.toNat → ∃ u, step t = .next u ∧ u.faultCause = .fetchOutOfRange) ∧
      ((∀ j : Fin 16, s.stack[j].toNat ≤ 0x1000) → t.pc.toNat ≤ 0x1000)) ∧
    (s.sp.val = 0 → exec (.ret ign) s = .next (faultedBy (.ret ign) .stackUnderflow 0 s))

/-- R112: JP sets PC to NNN and writes nothing else; a target of 0xFFF faults at the next fetch; a jump to its own
address leaves PC where it is. -/
def Obligations.JpSetsPc : Prop :=
  (∀ nnn : Imm12, decode (wordNNN 0x1 nnn) = .jp nnn) ∧
  ∀ (nnn : Imm12) (s : State), ∃ t, exec (.jp nnn) s = .next t ∧ t.pc.toNat = nnn.toNat ∧ OnlyPc s t ∧
    (s.status = .run → nnn = 0xFFF → ∃ u, step t = .next u ∧ u.faultCause = .fetchOutOfRange) ∧
    (s.pc.toNat = nnn.toNat → t.pc = s.pc)

/-- Derived from R113 (decisions D1, D6): CALL pushes a + 2 and sets PC to NNN; with a full stack it faults
STACK_OVERFLOW with info 16 and changes no architectural state. -/
def Obligations.CallPushesOrOverflows : Prop :=
  (∀ nnn : Imm12, decode (wordNNN 0x2 nnn) = .call nnn) ∧
  ∀ (nnn : Imm12) (s : State),
    (∀ h : s.sp.val < 16, ∃ t, exec (.call nnn) s = .next t ∧ t.pc.toNat = nnn.toNat ∧ t.sp.val = s.sp.val + 1 ∧
      t.stack[s.sp.val] = s.pc + 2 ∧ (∀ j : Fin 16, j.val ≠ s.sp.val → t.stack[j] = s.stack[j]) ∧ OnlyStack s t) ∧
    (s.sp.val = 16 → exec (.call nnn) s = .next (faultedBy (.call nnn) .stackOverflow 16 s))

/-- Derived from R111, R113 (decision D1; 95_test_vectors.md E6): a RET after a CALL restores SP and returns to the
instruction after the CALL. -/
def Obligations.CallThenRetReturns : Prop :=
  ∀ (nnn : Imm12) (ign : Byte) (s t : State), s.sp.val < 16 → exec (.call nnn) s = .next t →
    ∃ u, exec (.ret ign) t = .next u ∧ u.pc = s.pc + 2 ∧ u.sp = s.sp ∧ OnlyStack s u

/-- Derived from R114 (decision D26): JP V0 sets PC to the exact sum of NNN and V0, whatever bits 11:8 hold, and writes
nothing else. -/
def Obligations.JpV0AddsV0Exactly : Prop :=
  (∀ nnn : Imm12, decode (wordNNN 0xB nnn) = .jpV0 nnn) ∧
  ∀ (nnn : Imm12) (s : State), ∃ t, exec (.jpV0 nnn) s = .next t ∧
    t.pc.toNat = nnn.toNat + (s.v[(0 : RegNum)]).toNat ∧ OnlyPc s t

/-! ### Skips -/

/-- R131, R132: SE and SNE with an immediate leave PC at a + 4 when the skip is taken, at a + 2 when not, and write
nothing else. -/
def Obligations.ImmediateSkips : Prop :=
  (∀ (x : RegNum) (kk : Byte), decode (wordXKK 0x3 x kk) = .seImm x kk ∧ decode (wordXKK 0x4 x kk) = .sneImm x kk) ∧
  ∀ (x : RegNum) (kk : Byte) (s : State),
    (∃ t, exec (.seImm x kk) s = .next t ∧ t.pc = (if s.v[x] = kk then s.pc + 4 else s.pc + 2) ∧ OnlyPc s t) ∧
    (∃ t, exec (.sneImm x kk) s = .next t ∧ t.pc = (if s.v[x] = kk then s.pc + 2 else s.pc + 4) ∧ OnlyPc s t)

/-- R133, R134: SE and SNE with a register, bits 3:0 ignored. -/
def Obligations.RegisterSkips : Prop :=
  (∀ (x y : RegNum) (n : Nibble), decode (word 0x5 (regNib x) (regNib y) n) = .seReg x y n ∧
    decode (word 0x9 (regNib x) (regNib y) n) = .sneReg x y n) ∧
  ∀ (x y : RegNum) (n : Nibble) (s : State),
    (∃ t, exec (.seReg x y n) s = .next t ∧ t.pc = (if s.v[x] = s.v[y] then s.pc + 4 else s.pc + 2) ∧ OnlyPc s t) ∧
    (∃ t, exec (.sneReg x y n) s = .next t ∧ t.pc = (if s.v[x] = s.v[y] then s.pc + 2 else s.pc + 4) ∧ OnlyPc s t)

/-! ### Loads, arithmetic and logic -/

/-- R141: LD Vx, kk writes KK to VX and no other register. -/
def Obligations.LdImmLoads : Prop :=
  (∀ (x : RegNum) (kk : Byte), decode (wordXKK 0x6 x kk) = .ldImm x kk) ∧
  ∀ (x : RegNum) (kk : Byte) (s : State), ∃ t, exec (.ldImm x kk) s = .next t ∧
    t.v[x] = kk ∧ OtherRegs [x] s t ∧ OnlyRegs s t

/-- Derived from R142 (decision D14): ADD Vx, kk adds mod 256; VF is no carry flag here. -/
def Obligations.AddImmAddsWithoutFlag : Prop :=
  (∀ (x : RegNum) (kk : Byte), decode (wordXKK 0x7 x kk) = .addImm x kk) ∧
  ∀ (x : RegNum) (kk : Byte) (s : State), ∃ t, exec (.addImm x kk) s = .next t ∧
    (t.v[x]).toNat = ((s.v[x]).toNat + kk.toNat) % 256 ∧ OtherRegs [x] s t ∧ OnlyRegs s t

/-- Derived from R143 to R146 (general knowledge G3, G4): LD, OR, AND, XOR on registers, bit by bit, VF unchanged
unless it is VX. -/
def Obligations.MoveAndLogicOperations : Prop :=
  (∀ x y : RegNum, decode (word 0x8 (regNib x) (regNib y) 0x0) = .ldReg x y ∧
    decode (word 0x8 (regNib x) (regNib y) 0x1) = .orReg x y ∧
    decode (word 0x8 (regNib x) (regNib y) 0x2) = .andReg x y ∧
    decode (word 0x8 (regNib x) (regNib y) 0x3) = .xorReg x y) ∧
  ∀ (x y : RegNum) (s : State),
    (∃ t, exec (.ldReg x y) s = .next t ∧ t.v[x] = s.v[y] ∧ OtherRegs [x] s t ∧ OnlyRegs s t) ∧
    (∃ t, exec (.orReg x y) s = .next t ∧
      (∀ b, (t.v[x]).getLsbD b = ((s.v[x]).getLsbD b || (s.v[y]).getLsbD b)) ∧ OtherRegs [x] s t ∧ OnlyRegs s t) ∧
    (∃ t, exec (.andReg x y) s = .next t ∧
      (∀ b, (t.v[x]).getLsbD b = ((s.v[x]).getLsbD b && (s.v[y]).getLsbD b)) ∧ OtherRegs [x] s t ∧ OnlyRegs s t) ∧
    (∃ t, exec (.xorReg x y) s = .next t ∧
      (∀ b, (t.v[x]).getLsbD b = ((s.v[x]).getLsbD b ^^ (s.v[y]).getLsbD b)) ∧ OtherRegs [x] s t ∧ OnlyRegs s t)

/-- Derived from R147, R140 (decision D12 where Y = 0xF: the operands are read before VF is written; log entry 7): ADD
Vx, Vy: VX is the sum mod 256; VF is the carry, unless X = 0xF. -/
def Obligations.AddRegAddsWithCarry : Prop :=
  (∀ x y : RegNum, decode (word 0x8 (regNib x) (regNib y) 0x4) = .addReg x y) ∧
  ∀ (x y : RegNum) (s : State), ∃ t, exec (.addReg x y) s = .next t ∧
    (t.v[x]).toNat = ((s.v[x]).toNat + (s.v[y]).toNat) % 256 ∧
    (x ≠ vf → (t.v[vf]).toNat = if (s.v[x]).toNat + (s.v[y]).toNat > 255 then 1 else 0) ∧
    OtherRegs [x, vf] s t ∧ OnlyRegs s t

/-- Derived from R148, R150, R140 (decision D11; decision D12 where Y = 0xF; log entry 7; general knowledge G5): SUB is
VX - VY, SUBN is VY - VX, mod 256; VF is 1 when no borrow occurs, unless X = 0xF. -/
def Obligations.SubtractWithoutBorrowFlag : Prop :=
  (∀ x y : RegNum, decode (word 0x8 (regNib x) (regNib y) 0x5) = .sub x y ∧
    decode (word 0x8 (regNib x) (regNib y) 0x7) = .subn x y) ∧
  ∀ (x y : RegNum) (s : State),
    (∃ t, exec (.sub x y) s = .next t ∧
      (t.v[x]).toNat = ((s.v[x]).toNat + 256 - (s.v[y]).toNat) % 256 ∧
      (x ≠ vf → (t.v[vf]).toNat = if (s.v[y]).toNat ≤ (s.v[x]).toNat then 1 else 0) ∧
      OtherRegs [x, vf] s t ∧ OnlyRegs s t) ∧
    (∃ t, exec (.subn x y) s = .next t ∧
      (t.v[x]).toNat = ((s.v[y]).toNat + 256 - (s.v[x]).toNat) % 256 ∧
      (x ≠ vf → (t.v[vf]).toNat = if (s.v[x]).toNat ≤ (s.v[y]).toNat then 1 else 0) ∧
      OtherRegs [x, vf] s t ∧ OnlyRegs s t)

/-- Derived from R149, R151 (decision D13): SHR and SHL shift VX by one; VF is the bit shifted out, unless X = 0xF; VY
is never read. -/
def Obligations.ShiftsMoveOneBitOut : Prop :=
  (∀ x y : RegNum, decode (word 0x8 (regNib x) (regNib y) 0x6) = .shr x y ∧
    decode (word 0x8 (regNib x) (regNib y) 0xE) = .shl x y) ∧
  ∀ (x y : RegNum) (s : State),
    (∃ t, exec (.shr x y) s = .next t ∧ (t.v[x]).toNat = (s.v[x]).toNat / 2 ∧
      (x ≠ vf → (t.v[vf]).toNat = (s.v[x]).toNat % 2) ∧ OtherRegs [x, vf] s t ∧ OnlyRegs s t) ∧
    (∃ t, exec (.shl x y) s = .next t ∧ (t.v[x]).toNat = (s.v[x]).toNat * 2 % 256 ∧
      (x ≠ vf → (t.v[vf]).toNat = (s.v[x]).toNat / 128) ∧ OtherRegs [x, vf] s t ∧ OnlyRegs s t)

/-- Derived from R152, R242 (decision D22; log entry 1): RND writes the AND of KK with the next byte of the RAND input,
of which nothing is known; the model's counter `draws` moves on to a fresh byte. -/
def Obligations.RndMasksAFreshByte : Prop :=
  (∀ (x : RegNum) (kk : Byte), decode (wordXKK 0xC x kk) = .rnd x kk) ∧
  ∀ (x : RegNum) (kk : Byte) (s : State), ∃ t, exec (.rnd x kk) s = .next t ∧
    t.v[x] = Config.randByte s.draws &&& kk ∧ t.draws = s.draws + 1 ∧ OtherRegs [x] s t ∧
    OnlyRegs { s with draws := s.draws + 1 } t

/-! ### Index register and memory transfers -/

/-- R170: LD I, nnn sets I to NNN; values of I above 0xFFF are reachable only by FX1E. -/
def Obligations.LdISetsI : Prop :=
  (∀ nnn : Imm12, decode (wordNNN 0xA nnn) = .ldI nnn) ∧
  (∀ (nnn : Imm12) (s : State), ∃ t, exec (.ldI nnn) s = .next t ∧ t.i.toNat = nnn.toNat ∧ OnlyI s t) ∧
  (∀ (i : Instr) (s t : State), exec i s = .next t → s.i.toNat ≤ 0xFFF → 0xFFF < t.i.toNat → i.op = .ADD_I_VX)

/-- Derived from R171 (decision D15): ADD I, Vx adds mod 2^16, VF unchanged and no fault. -/
def Obligations.AddIWraps : Prop :=
  (∀ (x : RegNum) (m : Nibble), decode (word 0xF (regNib x) m 0xE) = .addIVx x m) ∧
  ∀ (x : RegNum) (m : Nibble) (s : State), ∃ t, exec (.addIVx x m) s = .next t ∧
    t.i.toNat = (s.i.toNat + (s.v[x]).toNat) % 65536 ∧ OnlyI s t

/-- Derived from R172 (decision D16): LD F points I at the glyph of VX, 5 * VX; a VX above 0xF faults GLYPH_OUT_OF_RANGE
with VX as info. -/
def Obligations.LdFPointsAtGlyph : Prop :=
  (∀ (x : RegNum) (m : Nibble), decode (word 0xF (regNib x) m 0x9) = .ldFVx x m) ∧
  ∀ (x : RegNum) (m : Nibble) (s : State),
    ((s.v[x]).toNat ≤ 0xF →
      ∃ t, exec (.ldFVx x m) s = .next t ∧ t.i.toNat = 5 * (s.v[x]).toNat ∧ OnlyI s t) ∧
    (0xF < (s.v[x]).toNat →
      exec (.ldFVx x m) s = .next (faultedBy (.ldFVx x m) .glyphOutOfRange (BitVec.ofNat 16 (s.v[x]).toNat) s))

/-- Derived from R173 (decisions D3, D4, D37): LD B stores the hundreds, tens and ones of VX at I, I + 1, I + 2 and
changes no other byte; if an address does not exist it faults MEM_OUT_OF_RANGE with the lowest such address, and
nothing is written. -/
def Obligations.LdBStoresDecimalDigits : Prop :=
  (∀ (x : RegNum) (m : Nibble), decode (word 0xF (regNib x) m 0x3) = .ldBVx x m) ∧
  ∀ (x : RegNum) (m : Nibble) (s : State),
    (dataBase s + 2 ≤ 0xFFF →
      ∃ t, exec (.ldBVx x m) s = .next t ∧
        (t.readByte (dataBase s)).toNat = (s.v[x]).toNat / 100 ∧
        (t.readByte (dataBase s + 1)).toNat = (s.v[x]).toNat / 10 % 10 ∧
        (t.readByte (dataBase s + 2)).toNat = (s.v[x]).toNat % 10 ∧
        (∀ a, a < dataBase s ∨ dataBase s + 2 < a → t.readByte a = s.readByte a) ∧ OnlyMem s t) ∧
    (0xFFF < dataBase s + 2 →
      exec (.ldBVx x m) s =
        .next (faultedBy (.ldBVx x m) .memOutOfRange (BitVec.ofNat 16 (max (dataBase s) 0x1000)) s))

/-- Derived from R174 (decision D17): LD [I], Vx stores V0..VX at I..I + X, leaves I and every other byte, and faults as
R173 does. -/
def Obligations.LdMemStoresRegisters : Prop :=
  (∀ x : RegNum, decode (word 0xF (regNib x) 0x5 0x5) = .ldMemVx x) ∧
  ∀ (x : RegNum) (s : State),
    (dataBase s + x.val ≤ 0xFFF →
      ∃ t, exec (.ldMemVx x) s = .next t ∧
        (∀ j : RegNum, j ≤ x → t.readByte (dataBase s + j.val) = s.v[j]) ∧
        (∀ a, a < dataBase s ∨ dataBase s + x.val < a → t.readByte a = s.readByte a) ∧ OnlyMem s t) ∧
    (0xFFF < dataBase s + x.val →
      exec (.ldMemVx x) s =
        .next (faultedBy (.ldMemVx x) .memOutOfRange (BitVec.ofNat 16 (max (dataBase s) 0x1000)) s))

/-- Derived from R175 (decision D17): LD Vx, [I] loads V0..VX from I..I + X, leaves I, memory and the registers above
X, and faults as R173 does. -/
def Obligations.LdVxMemLoadsRegisters : Prop :=
  (∀ x : RegNum, decode (word 0xF (regNib x) 0x6 0x5) = .ldVxMem x) ∧
  ∀ (x : RegNum) (s : State),
    (dataBase s + x.val ≤ 0xFFF →
      ∃ t, exec (.ldVxMem x) s = .next t ∧
        (∀ j : RegNum, j ≤ x → t.v[j] = s.readByte (dataBase s + j.val)) ∧
        (∀ j : RegNum, x < j → t.v[j] = s.v[j]) ∧ OnlyRegs s t) ∧
    (0xFFF < dataBase s + x.val →
      exec (.ldVxMem x) s =
        .next (faultedBy (.ldVxMem x) .memOutOfRange (BitVec.ofNat 16 (max (dataBase s) 0x1000)) s))

/-- Derived from R174, R175 (decision D17; 95_test_vectors.md E9): registers dumped, overwritten with anything and
loaded back from the same I hold their old values in V0..VX and only there. -/
def Obligations.DumpThenLoadRestores : Prop :=
  ∀ (x : RegNum) (s t : State) (v' : Vector Byte 16), s.status = .run → exec (.ldMemVx x) s = .next t →
    t.status = .run →
    ∃ u, exec (.ldVxMem x) { t with v := v' } = .next u ∧
      (∀ j : RegNum, j ≤ x → u.v[j] = s.v[j]) ∧ (∀ j : RegNum, x < j → u.v[j] = v'[j])

/-- Derived from R68, R268 (decision D31): a program that stores V0 and V1 over its own next instruction executes the
stored word. -/
def Obligations.StoredWordIsExecutedNext : Prop :=
  ∀ (x : RegNum) (s t : State), s.status = .run → 1 ≤ x.val → s.i = s.pc + 2 → exec (.ldMemVx x) s = .next t →
    t.status = .run → step t = exec (decode (beWord s.v[(0 : RegNum)] s.v[(1 : RegNum)])) t

/-! ### Display -/

/-- R191: CLS writes 0 to every cell and nothing else; bits 11:4 of its word are ignored. -/
def Obligations.ClsClearsEveryCell : Prop :=
  (∀ ign : Byte, decode (wordIgn 0x0 ign 0x0) = .cls ign) ∧
  ∀ (ign : Byte) (s : State), ∃ t, exec (.cls ign) s = .next t ∧
    (∀ n, n ≤ 2047 → Framebuffer.cell t.fb n = false) ∧ OnlyFb s t

/-- Derived from R192 (decisions D9, D10): a DRW whose sprite addresses and cells exist XORs bit 7 - c of sprite row r
into cell VX + 64*VY + 64*r + c, leaves every other cell, and writes VF = 0 or 1; with N = 0 it changes no cell and
sets VF = 0 whatever VX, VY and I are. -/
def Obligations.DrwXorsTheSprite : Prop :=
  (∀ x y n : RegNum, decode (word 0xD (regNib x) (regNib y) (regNib n)) = .drw x y n) ∧
  ∀ (x y : RegNum) (n : Fin 16) (s : State),
    (n.val = 0 ∨ (dataBase s + n.val ≤ 0x1000 ∧ drawBase s x y + 64 * (n.val - 1) + 7 ≤ 2047)) →
    ∃ t, exec (.drw x y n) s = .next t ∧
      (∀ r c, r < n.val → c < 8 →
        Framebuffer.cell t.fb (drawBase s x y + 64 * r + c) =
          (Framebuffer.cell s.fb (drawBase s x y + 64 * r + c) ^^ (s.readByte (dataBase s + r)).getLsbD (7 - c))) ∧
      (∀ k, (∀ r c, r < n.val → c < 8 → k ≠ drawBase s x y + 64 * r + c) →
        Framebuffer.cell t.fb k = Framebuffer.cell s.fb k) ∧
      (t.v[vf] = 0 ∨ t.v[vf] = 1) ∧ (n.val = 0 → t.v[vf] = 0) ∧ OtherRegs [vf] s t ∧ OnlyFbRegs s t

/-- Derived from R192, R227 (decisions D9, D37): a DRW with a sprite address above 0xFFF faults MEM_OUT_OF_RANGE with
the lowest one; otherwise one with a cell above 2047 faults FB_OUT_OF_RANGE with the lowest one; nothing is drawn. -/
def Obligations.DrwChecksMemoryThenCells : Prop :=
  ∀ (x y : RegNum) (n : Fin 16) (s : State), n.val ≠ 0 →
    (0x1000 < dataBase s + n.val →
      exec (.drw x y n) s =
        .next (faultedBy (.drw x y n) .memOutOfRange (BitVec.ofNat 16 (max (dataBase s) 0x1000)) s)) ∧
    (dataBase s + n.val ≤ 0x1000 → 2047 < drawBase s x y + 64 * (n.val - 1) + 7 →
      ∃ k, (∃ r c, r < n.val ∧ c < 8 ∧ k = drawBase s x y + 64 * r + c) ∧ 2047 < k ∧
        (∀ r c, r < n.val → c < 8 → 2047 < drawBase s x y + 64 * r + c → k ≤ drawBase s x y + 64 * r + c) ∧
        exec (.drw x y n) s = .next (faultedBy (.drw x y n) .fbOutOfRange (BitVec.ofNat 16 k) s))

/-- Derived from R193 (decision D10 where X or Y is 0xF): a DRW that does not fault sets VF to 1 exactly when a sprite
bit 1 falls on a cell that holds 1, that is when some pixel turns from 1 to 0; a pixel that turns from 0 to 1 is no
collision. -/
def Obligations.DrwCollisionIsAPixelTurnedOff : Prop :=
  ∀ (x y : RegNum) (n : Fin 16) (s t : State), s.status = .run → exec (.drw x y n) s = .next t → t.status = .run →
    ((t.v[vf] = 1 ↔ ∃ r c, r < n.val ∧ c < 8 ∧ (s.readByte (dataBase s + r)).getLsbD (7 - c) = true ∧
      Framebuffer.cell s.fb (drawBase s x y + 64 * r + c) = true)) ∧
    ((t.v[vf] = 1 ↔ ∃ k, Framebuffer.cell s.fb k = true ∧ Framebuffer.cell t.fb k = false)) ∧
    (t.v[vf] = 0 ∨ t.v[vf] = 1)

/-- Derived from R192, R193 (decisions D9, D10; log entry 10 on R192 (f)): a draw leaves the place it was drawn at the
same, unless X or Y is 0xF, which the draw writes; and whatever X and Y are, if the place is still the same, drawing
the same sprite again restores the framebuffer, and sets VF to 1 exactly if a sprite bit 1 fell on a cell that held 0
before the first draw. Over cells that all held 0 the first draw gives VF = 0 and the second VF = 1 exactly if the
sprite has a 1 bit. -/
def Obligations.DrawingTwiceRestores : Prop :=
  ∀ (x y : RegNum) (n : Fin 16) (s t : State), s.status = .run →
    exec (.drw x y n) s = .next t → t.status = .run →
    (x ≠ vf → y ≠ vf → drawBase t x y = drawBase s x y) ∧
    (drawBase t x y = drawBase s x y →
      ∃ u, exec (.drw x y n) t = .next u ∧ u.fb = s.fb ∧
        (u.v[vf] = 1 ↔ ∃ r c, r < n.val ∧ c < 8 ∧ (s.readByte (dataBase s + r)).getLsbD (7 - c) = true ∧
          Framebuffer.cell s.fb (drawBase s x y + 64 * r + c) = false) ∧
        ((∀ r c, r < n.val → c < 8 → Framebuffer.cell s.fb (drawBase s x y + 64 * r + c) = false) →
          t.v[vf] = 0 ∧
          (u.v[vf] = 1 ↔ ∃ r c, r < n.val ∧ c < 8 ∧ (s.readByte (dataBase s + r)).getLsbD (7 - c) = true)))

/-! ### Keypad -/

/-- Derived from R201, R202 (decision D18): SKP skips when the key line VX is 1, SKNP when it is 0; a VX above 0xF
faults KEY_OUT_OF_RANGE with VX as info. -/
def Obligations.KeySkips : Prop :=
  (∀ (x : RegNum) (m : Nibble), decode (word 0xE (regNib x) m 0xE) = .skp x m ∧
    decode (word 0xE (regNib x) m 0x1) = .sknp x m) ∧
  ∀ (x : RegNum) (m : Nibble) (s : State),
    (∀ h : (s.v[x]).toNat ≤ 0xF,
      (∃ t, exec (.skp x m) s = .next t ∧
        t.pc = (if s.key[(s.v[x]).toNat]'(by omega) = true then s.pc + 4 else s.pc + 2) ∧ OnlyPc s t) ∧
      (∃ t, exec (.sknp x m) s = .next t ∧
        t.pc = (if s.key[(s.v[x]).toNat]'(by omega) = true then s.pc + 2 else s.pc + 4) ∧ OnlyPc s t)) ∧
    (0xF < (s.v[x]).toNat →
      exec (.skp x m) s = .next (faultedBy (.skp x m) .keyOutOfRange (BitVec.ofNat 16 (s.v[x]).toNat) s) ∧
      exec (.sknp x m) s = .next (faultedBy (.sknp x m) .keyOutOfRange (BitVec.ofNat 16 (s.v[x]).toNat) s))

/-- Derived from R203 (decision D19; for TAG log entry 4): LD Vx, K completes at once with the lowest asserted key line;
with none the core holds, with PC at a + 2. -/
def Obligations.LdKeyCompletesOrHolds : Prop :=
  (∀ (x : RegNum) (m : Nibble), decode (word 0xF (regNib x) m 0xA) = .ldVxK x m) ∧
  ∀ (x : RegNum) (m : Nibble) (s : State),
    (∀ k : RegNum, s.key[k] = true → (∀ j : RegNum, j < k → s.key[j] = false) →
      ∃ t, exec (.ldVxK x m) s = .next t ∧ (t.v[x]).toNat = k.val ∧ OtherRegs [x] s t ∧ OnlyRegs s t) ∧
    ((∀ k : RegNum, s.key[k] = false) →
      exec (.ldVxK x m) s = .next { s with
        status := .waitKey, waitX := x, pc := s.pc + 2, tag := opTag .LD_VX_K, tagHeld := true })

/-- Derived from R239, R203 (b) (decisions D19, D27): KEY_SET, KEY_CLEAR and KEY_TOGGLE set one key line to 1, 0 and its
complement; in WAIT_KEY the first such action that leaves some line at 1 completes the wait with the lowest one. -/
def Obligations.KeyActionsCompleteTheWait : Prop :=
  ∀ (k : RegNum) (s : State) (a : PortAction) (b : Bool),
    (a = .keySet k ∧ b = true ∨ a = .keyClear k ∧ b = false ∨ a = .keyToggle k ∧ b = !s.key[k]) →
    (s.status ≠ .waitKey → act a s = .next { s with key := s.key.set k b }) ∧
    (s.status = .waitKey → (∀ j : RegNum, (s.key.set k b)[j] = false) → act a s = .next { s with key := s.key.set k b }) ∧
    (s.status = .waitKey → ∀ j : RegNum, (s.key.set k b)[j] = true → (∀ l : RegNum, l < j → (s.key.set k b)[l] = false) →
      act a s = .next { s with key := s.key.set k b, v := s.v.set s.waitX (BitVec.ofNat 8 j.val), status := .run })

/-! ### Timers -/

/-- Derived from R210 (decision D20): LD Vx, DT copies the count; an idle delay timer reads 0 in every state that meets
the invariant. -/
def Obligations.LdDtReadsTheCount : Prop :=
  (∀ (x : RegNum) (m : Nibble), decode (word 0xF (regNib x) m 0x7) = .ldVxDt x m) ∧
  ∀ (x : RegNum) (m : Nibble) (s : State), ∃ t, exec (.ldVxDt x m) s = .next t ∧
    t.v[x] = s.dt ∧ (s.Inv → s.dtIdle = true → t.v[x] = 0) ∧ OtherRegs [x] s t ∧ OnlyRegs s t

/-- Derived from R211, R212, R234 (decisions D20 for the idle flags, D39 for SOUND; log entry 7): LD DT, Vx and LD ST,
Vx write the count and clear the idle flag of their timer; the sound signal is on exactly if the count written is not
zero, and no instruction reads ST. -/
def Obligations.TimerWritesClearIdle : Prop :=
  (∀ x : RegNum, decode (word 0xF (regNib x) 0x1 0x5) = .ldDtVx x) ∧
  (∀ (x : RegNum) (m : Nibble), decode (word 0xF (regNib x) m 0x8) = .ldStVx x m) ∧
  (∀ (x : RegNum) (s : State), ∃ t, exec (.ldDtVx x) s = .next t ∧ t.dt = s.v[x] ∧ t.dtIdle = false ∧ OnlyDt s t) ∧
  (∀ (x : RegNum) (m : Nibble) (s : State), ∃ t, exec (.ldStVx x m) s = .next t ∧ t.st = s.v[x] ∧ t.stIdle = false ∧
    (sound t = true ↔ s.v[x] ≠ 0) ∧ OnlySt s t) ∧
  (∀ (i : Instr) (s : State) (c : Byte), ∃ t t', exec i s = .next t ∧ exec i { s with st := c } = .next t' ∧
    t' = { t with st := t'.st })

/-- Derived from R233, R234, R244 (decisions D21, D39): a tick decrements both timers by one, clamped at 0, in every
status, and changes nothing else; SOUND is 1 exactly when ST is not 0. -/
def Obligations.TickCountsDown : Prop :=
  ∀ s : State,
    (∃ t, act .tick s = .next t ∧ t.dt.toNat = s.dt.toNat - 1 ∧ t.st.toNat = s.st.toNat - 1 ∧
      t = { s with dt := t.dt, st := t.st }) ∧
    (sound s = true ↔ s.st.toNat ≠ 0)

/-! ### Host ports -/

/-- Derived from R237, R243 (decisions D35, D5): LOAD writes one byte, and above 0xFFF changes nothing and reports an
error; RESUME sets PC, clears FAULT_CAUSE and runs, in FAULTED only. -/
def Obligations.LoadAndResume : Prop :=
  (∀ (a : Nat) (b : Byte) (s : State),
    (a ≤ 0xFFF → reply (.load a b) s = .done ∧ ∃ t, act (.load a b) s = .next t ∧ t.readByte a = b ∧
      (∀ c, c ≠ a → t.readByte c = s.readByte c) ∧ t = { s with mem := t.mem }) ∧
    (0xFFF < a → reply (.load a b) s = .loadError ∧ act (.load a b) s = .next s)) ∧
  (∀ (p : Word) (s : State),
    (s.status = .faulted → act (.resume p) s = .next { s with pc := p, faultCause := .none, status := .run }) ∧
    (s.status ≠ .faulted → act (.resume p) s = .next s))

/-- Derived from R240, R241, R36, R221 (decisions D4, D20, D33; for TAG log entry 2): FB_READ and STATUS_READ have no
side effect and return the cell and the registers, STATUS as the number 0, 1 or 2 and FAULT_CAUSE as 0 to 8; TAG is
returned only when it holds a value. -/
def Obligations.ReadPortsHaveNoEffect : Prop :=
  ∀ s : State,
    (∀ n : Fin 2048, act (.fbRead n) s = .next s ∧ reply (.fbRead n) s = .cell (Framebuffer.cell s.fb n.val)) ∧
    act .statusRead s = .next s ∧
    ∃ r, reply .statusRead s = .report r ∧
      (s.status = .run → r.status.toNat = 0) ∧ (s.status = .waitKey → r.status.toNat = 1) ∧
      (s.status = .faulted → r.status.toNat = 2) ∧ r.waitX.toNat = s.waitX.val ∧
      (s.faultCause = .none → r.faultCause.toNat = 0) ∧ (s.faultCause = .invalidOpcode → r.faultCause.toNat = 1) ∧
      (s.faultCause = .stackUnderflow → r.faultCause.toNat = 2) ∧
      (s.faultCause = .stackOverflow → r.faultCause.toNat = 3) ∧
      (s.faultCause = .fetchOutOfRange → r.faultCause.toNat = 4) ∧
      (s.faultCause = .memOutOfRange → r.faultCause.toNat = 5) ∧
      (s.faultCause = .fbOutOfRange → r.faultCause.toNat = 6) ∧
      (s.faultCause = .keyOutOfRange → r.faultCause.toNat = 7) ∧
      (s.faultCause = .glyphOutOfRange → r.faultCause.toNat = 8) ∧
      r.faultPc = s.faultPc ∧ r.faultWord = s.faultWord ∧ r.faultInfo = s.faultInfo ∧
      (s.tagHeld = true → r.tag = some s.tag) ∧ (s.tagHeld = false → r.tag = none) ∧
      (r.sound = true ↔ s.st ≠ 0) ∧ r.dt = s.dt ∧ r.st = s.st ∧ r.dtIdle = s.dtIdle ∧ r.stIdle = s.stIdle

/-! ### Reset -/

/-- R35: after reset MEM[0..79] hold the font and every other byte holds 0x00, for every FONT. -/
def Obligations.ResetMemoryHoldsTheFont : Prop :=
  ∀ (font : Config.Font) (a : Nat),
    (∀ h : a < 80, (State.resetWith font).readByte a = font[a]) ∧
    (80 ≤ a → a ≤ 0xFFF → (State.resetWith font).readByte a = 0x00)

/-- Derived from R45, R236, R260 (decisions D20, D33; log entries 1, 2 and 3): RESET gives every element its reset
value, from every state; TAG holds no value and the RAND input goes on. -/
def Obligations.ResetGivesEveryValue : Prop :=
  ∀ s : State, ∃ t, act .reset s = .next t ∧
    (∀ r : RegNum, t.v[r] = 0) ∧ t.pc = 0x200 ∧ t.i = 0 ∧ t.sp.val = 0 ∧ (∀ j : Fin 16, t.stack[j] = 0) ∧
    t.dt = 0 ∧ t.st = 0 ∧ t.dtIdle = true ∧ t.stIdle = true ∧ (∀ k : RegNum, t.key[k] = false) ∧
    (∀ n, n ≤ 2047 → Framebuffer.cell t.fb n = false) ∧
    (∀ a, t.readByte a = (State.resetWith s.mem.font).readByte a) ∧
    t.mem.font = s.mem.font ∧ t.status = .run ∧ t.waitX.val = 0 ∧ t.faultCause = .none ∧ t.faultPc = 0 ∧
    t.faultWord = 0 ∧ t.faultInfo = 0 ∧ t.tagHeld = false ∧ t.draws = s.draws

/-! ### Invariants -/

/-- The invariant holds at reset, for every FONT (R32, R45; the invariant is the model's, see `State.Inv`). -/
def Obligations.ResetMeetsTheInvariant : Prop :=
  State.reset.Inv ∧ ∀ font : Config.Font, (State.resetWith font).Inv

/-- Every step keeps the invariant: the canonical memory, the idle timers at 0 (R32), FAULT_CAUSE with STATUS (R36,
R38), no key line down during a hold (R203), return addresses of at most 0x1000 (R111). -/
def Obligations.StepKeepsTheInvariant : Prop :=
  ∀ s t : State, s.Inv → step s = .next t → t.Inv

/-- Every interleaving of the agents' actions keeps the invariant (R232). -/
def Obligations.AllInterleavingsKeepTheInvariant : Prop :=
  ∀ (as : List PortAction) (s t : State), s.Inv → runActions as s = .next t → t.Inv

/-- Derived from R270 (decision D40): at a good end, a jump to itself, a further step changes nothing but TAG, and the
state stays a good end. -/
def Obligations.GoodEndIsStable : Prop :=
  ∀ s : State, s.endsWell = true →
    ∃ t, step s = .next t ∧ t = { s with tag := opTag .JP, tagHeld := true } ∧ t.endsWell = true
end

