-- ==== Sys2Proof/Laws/Draw.lean ====
section
/-!
SUPPORT. The framebuffer and the drawing loop (44_display.md R190 to R194), cell by cell: the loop of R192 equals one
XOR per cell of the sprite, and its flag is 1 exactly when a sprite bit 1 falls on a cell holding 1 (R193).
-/

namespace Sys2Proof.Machine

/-! ### Cells -/

theorem cell_setCell (f : Framebuffer) {n : Nat} (b : Bool) (m : Nat) (h : n ≤ 2047) :
    Framebuffer.cell (Framebuffer.setCell f n b) m = if m = n then b else Framebuffer.cell f m := by
  have hn : n < 2048 := by omega
  unfold Framebuffer.cell Framebuffer.setCell
  by_cases hm : m < 2048
  · simp only [hm, hn, dif_pos, Vector.getElem_set]
    by_cases hrow : n / 64 = m / 64
    · simp only [hrow, if_true, Vector.getElem_set]
      by_cases hcol : n % 64 = m % 64
      · have : m = n := by omega
        simp [this]
      · have : m ≠ n := by rintro rfl; exact hcol rfl
        simp [hcol, this]
    · have : m ≠ n := by rintro rfl; exact hrow rfl
      simp [hrow, this]
  · have : m ≠ n := by omega
    simp [hm, this]

@[simp] theorem cell_clear (n : Nat) : Framebuffer.cell Framebuffer.clear n = false := by
  simp [Framebuffer.cell, Framebuffer.clear]

theorem cell_of_gt (f : Framebuffer) {n : Nat} (h : 2047 < n) : Framebuffer.cell f n = false := by
  simp [Framebuffer.cell, show ¬ n < 2048 by omega]

/-- Framebuffers with the same cells are equal. -/
theorem framebuffer_ext {f g : Framebuffer} (h : ∀ n ≤ 2047, Framebuffer.cell f n = Framebuffer.cell g n) : f = g := by
  apply Vector.ext
  intro r hr
  apply Vector.ext
  intro c hc
  have := h (64 * r + c) (by omega)
  have h1 : (64 * r + c) / 64 = r := by omega
  have h2 : (64 * r + c) % 64 = c := by omega
  simpa [Framebuffer.cell, show 64 * r + c < 2048 by omega, h1, h2] using this

/-! ### The cells of a sprite -/

@[simp] theorem mem_drawCells {base n m : Nat} :
    m ∈ drawCells base n ↔ ∃ r < n, ∃ c < 8, m = base + 64 * r + c := by
  simp [drawCells, eq_comm]

theorem drawCells_pairwise (base n : Nat) : (drawCells base n).Pairwise (· < ·) := by
  unfold drawCells
  rw [List.pairwise_flatMap]
  constructor
  · intro r _
    rw [List.pairwise_map]
    exact List.pairwise_lt_range.imp (by omega)
  · refine List.pairwise_lt_range.imp ?_
    intro r r' hr a ha b hb
    simp only [List.mem_map, List.mem_range] at ha hb
    obtain ⟨c, hc, rfl⟩ := ha
    obtain ⟨c', hc', rfl⟩ := hb
    omega

theorem map_fst_drawBits (m : Memory) (b base n : Nat) : (drawBits m b base n).map Prod.fst = drawCells base n := by
  simp [drawBits, drawCells, List.map_flatMap, Function.comp_def]

theorem drawBits_nodup (m : Memory) (b base n : Nat) : ((drawBits m b base n).map Prod.fst).Nodup := by
  rw [map_fst_drawBits]
  exact (drawCells_pairwise base n).imp Nat.ne_of_lt

@[simp] theorem mem_drawBits {m : Memory} {b base n k : Nat} {p : Bool} :
    (k, p) ∈ drawBits m b base n ↔
      ∃ r < n, ∃ c < 8, k = base + 64 * r + c ∧ spriteBit (m.read (b + r)) c = p := by
  simp [drawBits, eq_comm]

/-! ### The loop -/

theorem foldl_drawBit (bits : List (Nat × Bool)) (f : Framebuffer) (v : Bool) (hn : (bits.map Prod.fst).Nodup)
    (hr : ∀ cb ∈ bits, cb.1 ≤ 2047) :
    (∀ k, Framebuffer.cell (bits.foldl drawBit (f, v)).1 k = (Framebuffer.cell f k ^^ decide ((k, true) ∈ bits))) ∧
    (bits.foldl drawBit (f, v)).2 = (v || bits.any fun cb => cb.2 && Framebuffer.cell f cb.1) := by
  induction bits generalizing f v with
  | nil => simp
  | cons cb bits ih =>
    obtain ⟨n, p⟩ := cb
    simp only [List.map_cons, List.nodup_cons] at hn
    have hn2 : n ≤ 2047 := hr (n, p) (by simp)
    obtain ⟨ih1, ih2⟩ := ih (Framebuffer.setCell f n (Framebuffer.cell f n ^^ p)) (v || (p && Framebuffer.cell f n)) hn.2
      fun cb hcb => hr cb (by simp [hcb])
    simp only [List.foldl_cons, drawBit]
    constructor
    · intro k
      rw [ih1, cell_setCell _ _ _ hn2]
      by_cases hk : k = n
      · subst hk
        have : (k, true) ∉ bits := fun hmem => hn.1 (List.mem_map.mpr ⟨_, hmem, rfl⟩)
        cases p <;> simp [this]
      · simp [hk]
    · rw [ih2, List.any_cons, Bool.or_assoc]
      congr 2
      apply Bool.eq_iff_iff.mpr
      simp only [List.any_eq_true]
      refine exists_congr fun cb => and_congr_right fun hcb => ?_
      have : cb.1 ≠ n := fun he => hn.1 (he ▸ List.mem_map.mpr ⟨cb, hcb, rfl⟩)
      rw [cell_setCell _ _ _ hn2, if_neg this]

/-- Each cell after a draw: XOR with the sprite bit that falls on it (44_display.md R192). -/
theorem cell_drawLoop (m : Memory) (f : Framebuffer) (b base n : Nat) (hr : ∀ k ∈ drawCells base n, k ≤ 2047) (k : Nat) :
    Framebuffer.cell (drawLoop f (drawBits m b base n)).1 k =
      (Framebuffer.cell f k ^^ decide ((k, true) ∈ drawBits m b base n)) := by
  exact (foldl_drawBit (drawBits m b base n) f false (drawBits_nodup m b base n) (by
    intro cb hcb
    apply hr
    rw [← map_fst_drawBits m b]
    exact List.mem_map.mpr ⟨cb, hcb, rfl⟩)).1 k

/-- A draw reports a collision exactly when a sprite bit 1 falls on a cell holding 1 (44_display.md R193). -/
theorem collision_drawLoop (m : Memory) (f : Framebuffer) (b base n : Nat) (hr : ∀ k ∈ drawCells base n, k ≤ 2047) :
    (drawLoop f (drawBits m b base n)).2 = true ↔
      ∃ r < n, ∃ c < 8, spriteBit (m.read (b + r)) c = true ∧ Framebuffer.cell f (base + 64 * r + c) = true := by
  have := (foldl_drawBit (drawBits m b base n) f false (drawBits_nodup m b base n) (by
    intro cb hcb
    apply hr
    rw [← map_fst_drawBits m b]
    exact List.mem_map.mpr ⟨cb, hcb, rfl⟩)).2
  unfold drawLoop
  rw [this]
  simp only [Bool.false_or, List.any_eq_true, Bool.and_eq_true]
  constructor
  · rintro ⟨⟨k, p⟩, hmem, hp, hc⟩
    obtain ⟨r, hr, c, hc', rfl, hbit⟩ := mem_drawBits.mp hmem
    exact ⟨r, hr, c, hc', hbit.trans hp, hc⟩
  · rintro ⟨r, hr, c, hc, hbit, hcell⟩
    exact ⟨(_, true), mem_drawBits.mpr ⟨r, hr, c, hc, rfl, hbit⟩, rfl, hcell⟩

end Sys2Proof.Machine
end

