-- ==== Sys2Proof/Laws/Encoding.lean ====
section
/-!
SUPPORT. The fields of the words the encoder writes, and the words put together from the fields the decoder reads
(30_encoding.md R76, R77). Every fact is read off the value of a word as a number.
-/

namespace Sys2Proof

@[simp] theorem nibReg_regNib (x : RegNum) : nibReg (regNib x) = x := rfl
@[simp] theorem regNib_nibReg (n : Nibble) : regNib (nibReg n) = n := rfl
@[simp] theorem toNat_regNib (x : RegNum) : (regNib x).toNat = x.val := rfl
@[simp] theorem val_nibReg (n : Nibble) : (nibReg n).val = n.toNat := rfl

/-! ### Words as numbers -/

theorem toNat_append' {a b : Nat} (x : BitVec a) (y : BitVec b) : (x ++ y).toNat = x.toNat * 2 ^ b + y.toNat := by
  rw [BitVec.toNat_append, ← Nat.shiftLeft_add_eq_or_of_lt y.isLt, Nat.shiftLeft_eq]

theorem toNat_word (a b c d : Nibble) :
    (word a b c d).toNat = 4096 * a.toNat + 256 * b.toNat + 16 * c.toNat + d.toNat := by
  show (a ++ b ++ c ++ d : BitVec (4 + 4 + 4 + 4)).toNat = _
  simp only [toNat_append']
  omega

theorem toNat_wordNNN (a : Nibble) (nnn : Imm12) : (wordNNN a nnn).toNat = 4096 * a.toNat + nnn.toNat := by
  show (a ++ nnn : BitVec (4 + 12)).toNat = _
  simp only [toNat_append']
  omega

theorem toNat_wordXKK (a : Nibble) (x : RegNum) (kk : Byte) :
    (wordXKK a x kk).toNat = 4096 * a.toNat + 256 * x.val + kk.toNat := by
  show (a ++ regNib x ++ kk : BitVec (4 + 4 + 8)).toNat = _
  simp only [toNat_append', toNat_regNib]
  omega

theorem toNat_wordIgn (a : Nibble) (ign : Byte) (d : Nibble) :
    (wordIgn a ign d).toNat = 4096 * a.toNat + 16 * ign.toNat + d.toNat := by
  show (a ++ ign ++ d : BitVec (4 + 8 + 4)).toNat = _
  simp only [toNat_append']
  omega

theorem toNat_beWord (hi lo : Byte) : (beWord hi lo).toNat = 256 * hi.toNat + lo.toNat := by
  show (hi ++ lo : BitVec (8 + 8)).toNat = _
  simp only [toNat_append']
  omega

theorem toNat_nib3 (w : Word) : (nib3 w).toNat = w.toNat / 4096 := by
  simp [nib3, Nat.shiftRight_eq_div_pow]; omega

theorem toNat_nib2 (w : Word) : (nib2 w).toNat = w.toNat / 256 % 16 := by
  simp [nib2, Nat.shiftRight_eq_div_pow]

theorem toNat_nib1 (w : Word) : (nib1 w).toNat = w.toNat / 16 % 16 := by
  simp [nib1, Nat.shiftRight_eq_div_pow]

theorem toNat_nib0 (w : Word) : (nib0 w).toNat = w.toNat % 16 := by
  simp [nib0]

theorem toNat_immKK (w : Word) : (immKK w).toNat = w.toNat % 256 := by
  simp [immKK]

theorem toNat_immNNN (w : Word) : (immNNN w).toNat = w.toNat % 4096 := by
  simp [immNNN]

theorem toNat_midByte (w : Word) : (midByte w).toNat = w.toNat / 16 % 256 := by
  simp [midByte, Nat.shiftRight_eq_div_pow]

theorem toNat_hiByte (w : Word) : (hiByte w).toNat = w.toNat / 256 := by
  simp [hiByte, Nat.shiftRight_eq_div_pow]; omega

theorem toNat_loByte (w : Word) : (loByte w).toNat = w.toNat % 256 := by
  simp [loByte]

/-! ### The fields of an encoded word -/

@[simp] theorem nib3_word (a b c d : Nibble) : nib3 (word a b c d) = a := by
  apply BitVec.eq_of_toNat_eq; rw [toNat_nib3, toNat_word]; omega
@[simp] theorem nib2_word (a b c d : Nibble) : nib2 (word a b c d) = b := by
  apply BitVec.eq_of_toNat_eq; rw [toNat_nib2, toNat_word]; omega
@[simp] theorem nib1_word (a b c d : Nibble) : nib1 (word a b c d) = c := by
  apply BitVec.eq_of_toNat_eq; rw [toNat_nib1, toNat_word]; omega
@[simp] theorem nib0_word (a b c d : Nibble) : nib0 (word a b c d) = d := by
  apply BitVec.eq_of_toNat_eq; rw [toNat_nib0, toNat_word]; omega

@[simp] theorem nib3_wordNNN (a : Nibble) (nnn : Imm12) : nib3 (wordNNN a nnn) = a := by
  apply BitVec.eq_of_toNat_eq; rw [toNat_nib3, toNat_wordNNN]; omega
@[simp] theorem immNNN_wordNNN (a : Nibble) (nnn : Imm12) : immNNN (wordNNN a nnn) = nnn := by
  apply BitVec.eq_of_toNat_eq; rw [toNat_immNNN, toNat_wordNNN]; omega
@[simp] theorem nib0_wordNNN (a : Nibble) (nnn : Imm12) : nib0 (wordNNN a nnn) = nnn.extractLsb' 0 4 := by
  apply BitVec.eq_of_toNat_eq; rw [toNat_nib0, toNat_wordNNN]; simp; omega

@[simp] theorem nib3_wordXKK (a : Nibble) (x : RegNum) (kk : Byte) : nib3 (wordXKK a x kk) = a := by
  apply BitVec.eq_of_toNat_eq; rw [toNat_nib3, toNat_wordXKK]; omega
@[simp] theorem nib2_wordXKK (a : Nibble) (x : RegNum) (kk : Byte) : nib2 (wordXKK a x kk) = regNib x := by
  apply BitVec.eq_of_toNat_eq; rw [toNat_nib2, toNat_wordXKK, toNat_regNib]; omega
@[simp] theorem immKK_wordXKK (a : Nibble) (x : RegNum) (kk : Byte) : immKK (wordXKK a x kk) = kk := by
  apply BitVec.eq_of_toNat_eq; rw [toNat_immKK, toNat_wordXKK]; omega

@[simp] theorem nib3_wordIgn (a : Nibble) (ign : Byte) (d : Nibble) : nib3 (wordIgn a ign d) = a := by
  apply BitVec.eq_of_toNat_eq; rw [toNat_nib3, toNat_wordIgn]; omega
@[simp] theorem midByte_wordIgn (a : Nibble) (ign : Byte) (d : Nibble) : midByte (wordIgn a ign d) = ign := by
  apply BitVec.eq_of_toNat_eq; rw [toNat_midByte, toNat_wordIgn]; omega
@[simp] theorem nib0_wordIgn (a : Nibble) (ign : Byte) (d : Nibble) : nib0 (wordIgn a ign d) = d := by
  apply BitVec.eq_of_toNat_eq; rw [toNat_nib0, toNat_wordIgn]; omega

@[simp] theorem hiByte_beWord (hi lo : Byte) : hiByte (beWord hi lo) = hi := by
  apply BitVec.eq_of_toNat_eq; rw [toNat_hiByte, toNat_beWord]; omega
@[simp] theorem loByte_beWord (hi lo : Byte) : loByte (beWord hi lo) = lo := by
  apply BitVec.eq_of_toNat_eq; rw [toNat_loByte, toNat_beWord]; omega

/-! ### A word from its fields -/

theorem word_fields (w : Word) : word (nib3 w) (nib2 w) (nib1 w) (nib0 w) = w := by
  apply BitVec.eq_of_toNat_eq; rw [toNat_word, toNat_nib3, toNat_nib2, toNat_nib1, toNat_nib0]; omega
theorem wordNNN_fields (w : Word) : wordNNN (nib3 w) (immNNN w) = w := by
  apply BitVec.eq_of_toNat_eq; rw [toNat_wordNNN, toNat_nib3, toNat_immNNN]; omega
theorem wordXKK_fields (w : Word) : wordXKK (nib3 w) (nibReg (nib2 w)) (immKK w) = w := by
  apply BitVec.eq_of_toNat_eq; rw [toNat_wordXKK, toNat_nib3, val_nibReg, toNat_nib2, toNat_immKK]; omega
theorem wordIgn_fields (w : Word) : wordIgn (nib3 w) (midByte w) (nib0 w) = w := by
  apply BitVec.eq_of_toNat_eq; rw [toNat_wordIgn, toNat_nib3, toNat_midByte, toNat_nib0]; omega
@[simp] theorem beWord_bytes (w : Word) : beWord (hiByte w) (loByte w) = w := by
  apply BitVec.eq_of_toNat_eq; rw [toNat_beWord, toNat_hiByte, toNat_loByte]; omega

/-- NNN = X:Y:N, so its low nibble is N (R77). -/
theorem immNNN_word_nib0 (w : Word) : (immNNN w).extractLsb' 0 4 = nib0 w := by
  apply BitVec.eq_of_toNat_eq; rw [toNat_nib0]; simp [toNat_immNNN]

end Sys2Proof
end

