-- ==== Sys2Proof/Laws/Memory.lean ====
section
/-!
SUPPORT. The laws of the memory (20_memory.md R64): a read after a write, what a write leaves alone, that every
operation keeps the canonical form, and that in this form equal memories are equal data.
-/

namespace Sys2Proof.Machine

/-! ### Lists of cells -/

@[simp] theorem cellsLookup_insert_self (a : Nat) (b : Byte) (cs : List Host.Cell) :
    cellsLookup a (cellsInsert a b cs) = some b := by
  induction cs with
  | nil => simp [cellsInsert, cellsLookup]
  | cons c cs ih =>
    unfold cellsInsert
    split
    · rename_i h
      simp [cellsLookup, ih, Nat.ne_of_lt h]
    · split <;> simp [cellsLookup]

theorem cellsLookup_insert_ne {a c : Nat} (b : Byte) (cs : List Host.Cell) (h : c ≠ a) :
    cellsLookup c (cellsInsert a b cs) = cellsLookup c cs := by
  induction cs with
  | nil => simp [cellsInsert, cellsLookup, h.symm]
  | cons d cs ih =>
    unfold cellsInsert
    split
    · simp [cellsLookup, ih]
    · split
      · rename_i hd
        simp [cellsLookup, h.symm, hd]
      · simp [cellsLookup, h.symm]

@[simp] theorem cellsLookup_erase_self (a : Nat) (cs : List Host.Cell) : cellsLookup a (cellsErase a cs) = none := by
  induction cs with
  | nil => rfl
  | cons c cs ih =>
    unfold cellsErase
    split
    · exact ih
    · simp [cellsLookup, *]

theorem cellsLookup_erase_ne {a c : Nat} (cs : List Host.Cell) (h : c ≠ a) :
    cellsLookup c (cellsErase a cs) = cellsLookup c cs := by
  induction cs with
  | nil => rfl
  | cons d cs ih =>
    unfold cellsErase
    split
    · rename_i hd
      simp [cellsLookup, ih, hd, h.symm]
    · simp [cellsLookup, ih]

/-! ### One byte -/

@[simp] theorem Memory.write_font (m : Memory) (a : Nat) (b : Byte) : (m.write a b).font = m.font := by
  unfold Memory.write
  split
  · rfl
  · split <;> rfl

@[simp] theorem Memory.write_unlisted (m : Memory) (a : Nat) (b : Byte) (c : Nat) :
    (m.write a b).unlisted c = m.unlisted c := by
  simp [Memory.unlisted]

/-- A read after a write of the same address gives the byte written. -/
theorem Memory.read_write_self (m : Memory) {a : Nat} (b : Byte) (h : a ≤ 0xFFF) : (m.write a b).read a = b := by
  unfold Memory.read
  rw [write_unlisted]
  simp only [Memory.write, Nat.not_lt.mpr h, if_false]
  split
  · rename_i hb
    simp [hb]
  · simp

/-- A write leaves every other address alone. -/
theorem Memory.read_write_ne (m : Memory) {a c : Nat} (b : Byte) (h : c ≠ a) : (m.write a b).read c = m.read c := by
  unfold Memory.read
  rw [write_unlisted]
  unfold Memory.write
  split
  · rfl
  · split
    · simp [cellsLookup_erase_ne _ h]
    · simp [cellsLookup_insert_ne _ _ h]

/-- The two laws as one. -/
theorem Memory.read_write (m : Memory) {a : Nat} (b : Byte) (c : Nat) (h : a ≤ 0xFFF) :
    (m.write a b).read c = if c = a then b else m.read c := by
  by_cases hc : c = a
  · simp [hc, read_write_self _ _ h]
  · simp [hc, read_write_ne _ _ hc]

/-! ### The canonical form -/

theorem cellsWf_congr {m m' : Memory} (h : m.font = m'.font) (lo : Nat) (cs : List Host.Cell) :
    cellsWf m lo cs = cellsWf m' lo cs := by
  induction cs generalizing lo with
  | nil => rfl
  | cons c cs ih => simp [cellsWf, Memory.unlisted, h, ih]

theorem cellsWf_mono {m : Memory} {lo lo' : Nat} {cs : List Host.Cell} (h : cellsWf m lo cs = true) (hl : lo' ≤ lo) :
    cellsWf m lo' cs = true := by
  cases cs with
  | nil => rfl
  | cons c cs =>
    simp only [cellsWf, Bool.and_eq_true, decide_eq_true_eq] at h ⊢
    exact ⟨⟨⟨Nat.le_trans hl h.1.1.1, h.1.1.2⟩, h.1.2⟩, h.2⟩

theorem cellsWf_insert {m : Memory} {a lo : Nat} {b : Byte} {cs : List Host.Cell} (h : cellsWf m lo cs = true)
    (ha : a ≤ 0xFFF) (hlo : lo ≤ a) (hb : b ≠ m.unlisted a) : cellsWf m lo (cellsInsert a b cs) = true := by
  induction cs generalizing lo with
  | nil => simp [cellsInsert, cellsWf, ha, hlo, hb]
  | cons c cs ih =>
    simp only [cellsWf, Bool.and_eq_true, decide_eq_true_eq] at h
    unfold cellsInsert
    split
    · rename_i hc
      simp only [cellsWf, Bool.and_eq_true, decide_eq_true_eq]
      exact ⟨h.1, ih h.2 hc⟩
    · rename_i hc
      split
      · rename_i he
        subst he
        simp [cellsWf, hlo, ha, hb, h.2]
      · rename_i he
        have : a < c.1 := by omega
        simp [cellsWf, hlo, ha, hb, this, h.1.1.2, h.2]
        simpa using h.1.2

theorem cellsWf_erase {m : Memory} (a : Nat) {lo : Nat} {cs : List Host.Cell} (h : cellsWf m lo cs = true) :
    cellsWf m lo (cellsErase a cs) = true := by
  induction cs generalizing lo with
  | nil => rfl
  | cons c cs ih =>
    simp only [cellsWf, Bool.and_eq_true, decide_eq_true_eq] at h
    unfold cellsErase
    split
    · exact cellsWf_mono (ih h.2) (by omega)
    · simp only [cellsWf, Bool.and_eq_true, decide_eq_true_eq]
      exact ⟨h.1, ih h.2⟩

/-- A write keeps the canonical form. -/
theorem Memory.wf_write {m : Memory} (h : m.wf = true) (a : Nat) (b : Byte) : (m.write a b).wf = true := by
  unfold Memory.wf at h ⊢
  rw [cellsWf_congr (m' := m) (write_font m a b)]
  unfold Memory.write
  split
  · exact h
  · split
    · exact cellsWf_erase a h
    · exact cellsWf_insert h (by omega) (Nat.zero_le a) ‹_›

/-- A memory with nothing listed has the canonical form. -/
theorem Memory.wf_nil (font : Config.Font) : Memory.wf ⟨font, []⟩ = true := rfl

theorem cellsLookup_none_of_lt {m : Memory} {a lo : Nat} {cs : List Host.Cell} (h : cellsWf m lo cs = true)
    (ha : a < lo) : cellsLookup a cs = none := by
  induction cs generalizing lo with
  | nil => rfl
  | cons c cs ih =>
    simp only [cellsWf, Bool.and_eq_true, decide_eq_true_eq] at h
    have : c.1 ≠ a := by omega
    simp [cellsLookup, this, ih h.2 (by omega)]

theorem cells_ext {m : Memory} {lo : Nat} {cs ds : List Host.Cell} (hc : cellsWf m lo cs = true)
    (hd : cellsWf m lo ds = true)
    (h : ∀ a, (cellsLookup a cs).getD (m.unlisted a) = (cellsLookup a ds).getD (m.unlisted a)) : cs = ds := by
  induction cs generalizing lo ds with
  | nil =>
    cases ds with
    | nil => rfl
    | cons d ds =>
      simp only [cellsWf, Bool.and_eq_true, decide_eq_true_eq] at hd
      have := h d.1
      simp [cellsLookup] at this
      simp [this] at hd
  | cons c cs ih =>
    simp only [cellsWf, Bool.and_eq_true, decide_eq_true_eq, bne_iff_ne] at hc
    cases ds with
    | nil =>
      have := h c.1
      simp [cellsLookup] at this
      exact absurd this hc.1.2
    | cons d ds =>
      simp only [cellsWf, Bool.and_eq_true, decide_eq_true_eq, bne_iff_ne] at hd
      have key : c.1 = d.1 := by
        rcases Nat.lt_trichotomy c.1 d.1 with hlt | heq | hgt
        · have := h c.1
          have hn : cellsLookup c.1 ds = none := cellsLookup_none_of_lt hd.2 (by omega)
          have hne : d.1 ≠ c.1 := by omega
          simp [cellsLookup, hn, hne] at this
          exact absurd this hc.1.2
        · exact heq
        · have := h d.1
          have hn : cellsLookup d.1 cs = none := cellsLookup_none_of_lt hc.2 (by omega)
          have hne : c.1 ≠ d.1 := by omega
          simp [cellsLookup, hn, hne] at this
          exact absurd this.symm hd.1.2
      have hval : c.2 = d.2 := by
        have := h c.1
        simpa [cellsLookup, key] using this
      have htail : cs = ds := by
        refine ih hc.2 (key ▸ hd.2) fun a => ?_
        by_cases ha : c.1 = a
        · subst ha
          rw [cellsLookup_none_of_lt hc.2 (by omega), cellsLookup_none_of_lt (key ▸ hd.2) (by omega)]
        · have := h a
          simpa [cellsLookup, ha, key ▸ ha] using this
      rw [htail, Prod.ext key hval]

/-- Equal memories are equal data. -/
theorem Memory.ext_read {m m' : Memory} (hm : m.wf = true) (hm' : m'.wf = true) (hf : m.font = m'.font)
    (h : ∀ a, m.read a = m'.read a) : m = m' := by
  obtain ⟨f, cs⟩ := m
  obtain ⟨f', ds⟩ := m'
  obtain rfl : f = f' := hf
  have : cs = ds := cells_ext hm ((cellsWf_congr (m := ⟨f, cs⟩) (m' := ⟨f, ds⟩) rfl 0 ds).trans hm') fun a => h a
  rw [this]

/-! ### Several bytes -/

@[simp] theorem Memory.writeList_font (m : Memory) (a : Nat) (bs : List Byte) : (m.writeList a bs).font = m.font := by
  induction bs generalizing m a with
  | nil => rfl
  | cons b bs ih => simp [Memory.writeList, ih]

theorem Memory.wf_writeList {m : Memory} (h : m.wf = true) (a : Nat) (bs : List Byte) : (m.writeList a bs).wf = true := by
  induction bs generalizing m a with
  | nil => exact h
  | cons b bs ih => exact ih (wf_write h a b) (a + 1)

theorem Memory.wf_writeWord {m : Memory} (h : m.wf = true) (a : Nat) (w : Word) : (m.writeWord a w).wf = true :=
  wf_write (wf_write h _ _) _ _

/-- What a list of stored bytes changes: byte `c - a` of the list at the addresses stored to, nothing elsewhere. -/
theorem Memory.read_writeList (m : Memory) (a : Nat) (bs : List Byte) (c : Nat) (h : a + bs.length ≤ 0x1000) :
    (m.writeList a bs).read c = if a ≤ c then (bs[c - a]?).getD (m.read c) else m.read c := by
  induction bs generalizing m a with
  | nil => simp [Memory.writeList]
  | cons b bs ih =>
    simp only [List.length_cons] at h
    simp only [Memory.writeList]
    rw [ih _ _ (by omega), read_write _ _ _ (by omega)]
    rcases Nat.lt_trichotomy c a with hlt | heq | hgt
    · simp [Nat.not_le.mpr hlt, show ¬ a + 1 ≤ c by omega, show c ≠ a by omega]
    · subst heq
      simp
    · have hsub : c - a = (c - (a + 1)) + 1 := by omega
      simp [show a ≤ c by omega, show a + 1 ≤ c by omega, show c ≠ a by omega, hsub]

@[simp] theorem Memory.length_readList (m : Memory) (a n : Nat) : (m.readList a n).length = n := by
  induction n generalizing a with
  | zero => rfl
  | succ n ih => simp [Memory.readList, ih]

theorem Memory.getElem?_readList (m : Memory) (a n j : Nat) :
    (m.readList a n)[j]? = if j < n then some (m.read (a + j)) else none := by
  induction n generalizing a j with
  | zero => simp [Memory.readList]
  | succ n ih =>
    cases j with
    | zero => simp [Memory.readList]
    | succ j =>
      simp only [Memory.readList, List.getElem?_cons_succ, ih]
      simp [show a + 1 + j = a + (j + 1) by omega]

/-- The word fetched from where a word was stored is that word (20_memory.md R54, R68). -/
theorem Memory.readWord_writeWord (m : Memory) {a : Nat} (w : Word) (h : a + 1 ≤ 0xFFF) :
    (m.writeWord a w).readWord a = w := by
  unfold Memory.readWord Memory.writeWord
  rw [read_write_ne _ _ (by omega), read_write_self _ _ (by omega), read_write_self _ _ h]
  simp only [beWord, hiByte, loByte]
  rw [BitVec.extractLsb'_append_extractLsb'_eq_extractLsb' (by omega)]
  simp

end Sys2Proof.Machine
end

