-- ==== Sys2Proof/Laws/State.lean ====
section
/-!
SUPPORT. What each field of the state is after each named update (Machine/Ops.lean, Machine/Flags.lean): one lemma per
field per update, so that no later proof unfolds an update.
-/

namespace Sys2Proof.Machine

/-! ### setReg -/

@[simp] theorem setReg_v (s : State) (x : RegNum) (b : Byte) : (s.setReg x b).v = s.v.set x b := rfl
@[simp] theorem setReg_pc (s : State) (x : RegNum) (b : Byte) : (s.setReg x b).pc = s.pc := rfl
@[simp] theorem setReg_i (s : State) (x : RegNum) (b : Byte) : (s.setReg x b).i = s.i := rfl
@[simp] theorem setReg_sp (s : State) (x : RegNum) (b : Byte) : (s.setReg x b).sp = s.sp := rfl
@[simp] theorem setReg_stack (s : State) (x : RegNum) (b : Byte) : (s.setReg x b).stack = s.stack := rfl
@[simp] theorem setReg_dt (s : State) (x : RegNum) (b : Byte) : (s.setReg x b).dt = s.dt := rfl
@[simp] theorem setReg_st (s : State) (x : RegNum) (b : Byte) : (s.setReg x b).st = s.st := rfl
@[simp] theorem setReg_dtIdle (s : State) (x : RegNum) (b : Byte) : (s.setReg x b).dtIdle = s.dtIdle := rfl
@[simp] theorem setReg_stIdle (s : State) (x : RegNum) (b : Byte) : (s.setReg x b).stIdle = s.stIdle := rfl
@[simp] theorem setReg_key (s : State) (x : RegNum) (b : Byte) : (s.setReg x b).key = s.key := rfl
@[simp] theorem setReg_fb (s : State) (x : RegNum) (b : Byte) : (s.setReg x b).fb = s.fb := rfl
@[simp] theorem setReg_mem (s : State) (x : RegNum) (b : Byte) : (s.setReg x b).mem = s.mem := rfl
@[simp] theorem setReg_status (s : State) (x : RegNum) (b : Byte) : (s.setReg x b).status = s.status := rfl
@[simp] theorem setReg_waitX (s : State) (x : RegNum) (b : Byte) : (s.setReg x b).waitX = s.waitX := rfl
@[simp] theorem setReg_faultCause (s : State) (x : RegNum) (b : Byte) : (s.setReg x b).faultCause = s.faultCause := rfl
@[simp] theorem setReg_faultPc (s : State) (x : RegNum) (b : Byte) : (s.setReg x b).faultPc = s.faultPc := rfl
@[simp] theorem setReg_faultWord (s : State) (x : RegNum) (b : Byte) : (s.setReg x b).faultWord = s.faultWord := rfl
@[simp] theorem setReg_faultInfo (s : State) (x : RegNum) (b : Byte) : (s.setReg x b).faultInfo = s.faultInfo := rfl
@[simp] theorem setReg_tag (s : State) (x : RegNum) (b : Byte) : (s.setReg x b).tag = s.tag := rfl
@[simp] theorem setReg_tagHeld (s : State) (x : RegNum) (b : Byte) : (s.setReg x b).tagHeld = s.tagHeld := rfl
@[simp] theorem setReg_draws (s : State) (x : RegNum) (b : Byte) : (s.setReg x b).draws = s.draws := rfl

/-! ### setPc -/

@[simp] theorem setPc_v (s : State) (p : Word) : (s.setPc p).v = s.v := rfl
@[simp] theorem setPc_pc (s : State) (p : Word) : (s.setPc p).pc = p := rfl
@[simp] theorem setPc_i (s : State) (p : Word) : (s.setPc p).i = s.i := rfl
@[simp] theorem setPc_sp (s : State) (p : Word) : (s.setPc p).sp = s.sp := rfl
@[simp] theorem setPc_stack (s : State) (p : Word) : (s.setPc p).stack = s.stack := rfl
@[simp] theorem setPc_dt (s : State) (p : Word) : (s.setPc p).dt = s.dt := rfl
@[simp] theorem setPc_st (s : State) (p : Word) : (s.setPc p).st = s.st := rfl
@[simp] theorem setPc_dtIdle (s : State) (p : Word) : (s.setPc p).dtIdle = s.dtIdle := rfl
@[simp] theorem setPc_stIdle (s : State) (p : Word) : (s.setPc p).stIdle = s.stIdle := rfl
@[simp] theorem setPc_key (s : State) (p : Word) : (s.setPc p).key = s.key := rfl
@[simp] theorem setPc_fb (s : State) (p : Word) : (s.setPc p).fb = s.fb := rfl
@[simp] theorem setPc_mem (s : State) (p : Word) : (s.setPc p).mem = s.mem := rfl
@[simp] theorem setPc_status (s : State) (p : Word) : (s.setPc p).status = s.status := rfl
@[simp] theorem setPc_waitX (s : State) (p : Word) : (s.setPc p).waitX = s.waitX := rfl
@[simp] theorem setPc_faultCause (s : State) (p : Word) : (s.setPc p).faultCause = s.faultCause := rfl
@[simp] theorem setPc_faultPc (s : State) (p : Word) : (s.setPc p).faultPc = s.faultPc := rfl
@[simp] theorem setPc_faultWord (s : State) (p : Word) : (s.setPc p).faultWord = s.faultWord := rfl
@[simp] theorem setPc_faultInfo (s : State) (p : Word) : (s.setPc p).faultInfo = s.faultInfo := rfl
@[simp] theorem setPc_tag (s : State) (p : Word) : (s.setPc p).tag = s.tag := rfl
@[simp] theorem setPc_tagHeld (s : State) (p : Word) : (s.setPc p).tagHeld = s.tagHeld := rfl
@[simp] theorem setPc_draws (s : State) (p : Word) : (s.setPc p).draws = s.draws := rfl

/-! ### advance -/

@[simp] theorem advance_v (s : State) : (s.advance).v = s.v := rfl
@[simp] theorem advance_pc (s : State) : (s.advance).pc = s.pc + 2 := rfl
@[simp] theorem advance_i (s : State) : (s.advance).i = s.i := rfl
@[simp] theorem advance_sp (s : State) : (s.advance).sp = s.sp := rfl
@[simp] theorem advance_stack (s : State) : (s.advance).stack = s.stack := rfl
@[simp] theorem advance_dt (s : State) : (s.advance).dt = s.dt := rfl
@[simp] theorem advance_st (s : State) : (s.advance).st = s.st := rfl
@[simp] theorem advance_dtIdle (s : State) : (s.advance).dtIdle = s.dtIdle := rfl
@[simp] theorem advance_stIdle (s : State) : (s.advance).stIdle = s.stIdle := rfl
@[simp] theorem advance_key (s : State) : (s.advance).key = s.key := rfl
@[simp] theorem advance_fb (s : State) : (s.advance).fb = s.fb := rfl
@[simp] theorem advance_mem (s : State) : (s.advance).mem = s.mem := rfl
@[simp] theorem advance_status (s : State) : (s.advance).status = s.status := rfl
@[simp] theorem advance_waitX (s : State) : (s.advance).waitX = s.waitX := rfl
@[simp] theorem advance_faultCause (s : State) : (s.advance).faultCause = s.faultCause := rfl
@[simp] theorem advance_faultPc (s : State) : (s.advance).faultPc = s.faultPc := rfl
@[simp] theorem advance_faultWord (s : State) : (s.advance).faultWord = s.faultWord := rfl
@[simp] theorem advance_faultInfo (s : State) : (s.advance).faultInfo = s.faultInfo := rfl
@[simp] theorem advance_tag (s : State) : (s.advance).tag = s.tag := rfl
@[simp] theorem advance_tagHeld (s : State) : (s.advance).tagHeld = s.tagHeld := rfl
@[simp] theorem advance_draws (s : State) : (s.advance).draws = s.draws := rfl

/-! ### setI -/

@[simp] theorem setI_v (s : State) (a : Word) : (s.setI a).v = s.v := rfl
@[simp] theorem setI_pc (s : State) (a : Word) : (s.setI a).pc = s.pc := rfl
@[simp] theorem setI_i (s : State) (a : Word) : (s.setI a).i = a := rfl
@[simp] theorem setI_sp (s : State) (a : Word) : (s.setI a).sp = s.sp := rfl
@[simp] theorem setI_stack (s : State) (a : Word) : (s.setI a).stack = s.stack := rfl
@[simp] theorem setI_dt (s : State) (a : Word) : (s.setI a).dt = s.dt := rfl
@[simp] theorem setI_st (s : State) (a : Word) : (s.setI a).st = s.st := rfl
@[simp] theorem setI_dtIdle (s : State) (a : Word) : (s.setI a).dtIdle = s.dtIdle := rfl
@[simp] theorem setI_stIdle (s : State) (a : Word) : (s.setI a).stIdle = s.stIdle := rfl
@[simp] theorem setI_key (s : State) (a : Word) : (s.setI a).key = s.key := rfl
@[simp] theorem setI_fb (s : State) (a : Word) : (s.setI a).fb = s.fb := rfl
@[simp] theorem setI_mem (s : State) (a : Word) : (s.setI a).mem = s.mem := rfl
@[simp] theorem setI_status (s : State) (a : Word) : (s.setI a).status = s.status := rfl
@[simp] theorem setI_waitX (s : State) (a : Word) : (s.setI a).waitX = s.waitX := rfl
@[simp] theorem setI_faultCause (s : State) (a : Word) : (s.setI a).faultCause = s.faultCause := rfl
@[simp] theorem setI_faultPc (s : State) (a : Word) : (s.setI a).faultPc = s.faultPc := rfl
@[simp] theorem setI_faultWord (s : State) (a : Word) : (s.setI a).faultWord = s.faultWord := rfl
@[simp] theorem setI_faultInfo (s : State) (a : Word) : (s.setI a).faultInfo = s.faultInfo := rfl
@[simp] theorem setI_tag (s : State) (a : Word) : (s.setI a).tag = s.tag := rfl
@[simp] theorem setI_tagHeld (s : State) (a : Word) : (s.setI a).tagHeld = s.tagHeld := rfl
@[simp] theorem setI_draws (s : State) (a : Word) : (s.setI a).draws = s.draws := rfl

/-! ### setTag -/

@[simp] theorem setTag_v (s : State) (t : Word) : (s.setTag t).v = s.v := rfl
@[simp] theorem setTag_pc (s : State) (t : Word) : (s.setTag t).pc = s.pc := rfl
@[simp] theorem setTag_i (s : State) (t : Word) : (s.setTag t).i = s.i := rfl
@[simp] theorem setTag_sp (s : State) (t : Word) : (s.setTag t).sp = s.sp := rfl
@[simp] theorem setTag_stack (s : State) (t : Word) : (s.setTag t).stack = s.stack := rfl
@[simp] theorem setTag_dt (s : State) (t : Word) : (s.setTag t).dt = s.dt := rfl
@[simp] theorem setTag_st (s : State) (t : Word) : (s.setTag t).st = s.st := rfl
@[simp] theorem setTag_dtIdle (s : State) (t : Word) : (s.setTag t).dtIdle = s.dtIdle := rfl
@[simp] theorem setTag_stIdle (s : State) (t : Word) : (s.setTag t).stIdle = s.stIdle := rfl
@[simp] theorem setTag_key (s : State) (t : Word) : (s.setTag t).key = s.key := rfl
@[simp] theorem setTag_fb (s : State) (t : Word) : (s.setTag t).fb = s.fb := rfl
@[simp] theorem setTag_mem (s : State) (t : Word) : (s.setTag t).mem = s.mem := rfl
@[simp] theorem setTag_status (s : State) (t : Word) : (s.setTag t).status = s.status := rfl
@[simp] theorem setTag_waitX (s : State) (t : Word) : (s.setTag t).waitX = s.waitX := rfl
@[simp] theorem setTag_faultCause (s : State) (t : Word) : (s.setTag t).faultCause = s.faultCause := rfl
@[simp] theorem setTag_faultPc (s : State) (t : Word) : (s.setTag t).faultPc = s.faultPc := rfl
@[simp] theorem setTag_faultWord (s : State) (t : Word) : (s.setTag t).faultWord = s.faultWord := rfl
@[simp] theorem setTag_faultInfo (s : State) (t : Word) : (s.setTag t).faultInfo = s.faultInfo := rfl
@[simp] theorem setTag_tag (s : State) (t : Word) : (s.setTag t).tag = t := rfl
@[simp] theorem setTag_tagHeld (s : State) (t : Word) : (s.setTag t).tagHeld = true := rfl
@[simp] theorem setTag_draws (s : State) (t : Word) : (s.setTag t).draws = s.draws := rfl

/-! ### skipIf -/

@[simp] theorem skipIf_v (s : State) (c : Bool) : (s.skipIf c).v = s.v := by cases c <;> rfl
@[simp] theorem skipIf_pc (s : State) (c : Bool) : (s.skipIf c).pc = if c then s.pc + 2 else s.pc := by cases c <;> rfl
@[simp] theorem skipIf_i (s : State) (c : Bool) : (s.skipIf c).i = s.i := by cases c <;> rfl
@[simp] theorem skipIf_sp (s : State) (c : Bool) : (s.skipIf c).sp = s.sp := by cases c <;> rfl
@[simp] theorem skipIf_stack (s : State) (c : Bool) : (s.skipIf c).stack = s.stack := by cases c <;> rfl
@[simp] theorem skipIf_dt (s : State) (c : Bool) : (s.skipIf c).dt = s.dt := by cases c <;> rfl
@[simp] theorem skipIf_st (s : State) (c : Bool) : (s.skipIf c).st = s.st := by cases c <;> rfl
@[simp] theorem skipIf_dtIdle (s : State) (c : Bool) : (s.skipIf c).dtIdle = s.dtIdle := by cases c <;> rfl
@[simp] theorem skipIf_stIdle (s : State) (c : Bool) : (s.skipIf c).stIdle = s.stIdle := by cases c <;> rfl
@[simp] theorem skipIf_key (s : State) (c : Bool) : (s.skipIf c).key = s.key := by cases c <;> rfl
@[simp] theorem skipIf_fb (s : State) (c : Bool) : (s.skipIf c).fb = s.fb := by cases c <;> rfl
@[simp] theorem skipIf_mem (s : State) (c : Bool) : (s.skipIf c).mem = s.mem := by cases c <;> rfl
@[simp] theorem skipIf_status (s : State) (c : Bool) : (s.skipIf c).status = s.status := by cases c <;> rfl
@[simp] theorem skipIf_waitX (s : State) (c : Bool) : (s.skipIf c).waitX = s.waitX := by cases c <;> rfl
@[simp] theorem skipIf_faultCause (s : State) (c : Bool) : (s.skipIf c).faultCause = s.faultCause := by cases c <;> rfl
@[simp] theorem skipIf_faultPc (s : State) (c : Bool) : (s.skipIf c).faultPc = s.faultPc := by cases c <;> rfl
@[simp] theorem skipIf_faultWord (s : State) (c : Bool) : (s.skipIf c).faultWord = s.faultWord := by cases c <;> rfl
@[simp] theorem skipIf_faultInfo (s : State) (c : Bool) : (s.skipIf c).faultInfo = s.faultInfo := by cases c <;> rfl
@[simp] theorem skipIf_tag (s : State) (c : Bool) : (s.skipIf c).tag = s.tag := by cases c <;> rfl
@[simp] theorem skipIf_tagHeld (s : State) (c : Bool) : (s.skipIf c).tagHeld = s.tagHeld := by cases c <;> rfl
@[simp] theorem skipIf_draws (s : State) (c : Bool) : (s.skipIf c).draws = s.draws := by cases c <;> rfl

/-! ### setFlagThenReg -/

@[simp] theorem setFlagThenReg_v (s : State) (f : Byte) (x : RegNum) (r : Byte) : (s.setFlagThenReg f x r).v = (s.v.set vf f).set x r := rfl
@[simp] theorem setFlagThenReg_pc (s : State) (f : Byte) (x : RegNum) (r : Byte) : (s.setFlagThenReg f x r).pc = s.pc := rfl
@[simp] theorem setFlagThenReg_i (s : State) (f : Byte) (x : RegNum) (r : Byte) : (s.setFlagThenReg f x r).i = s.i := rfl
@[simp] theorem setFlagThenReg_sp (s : State) (f : Byte) (x : RegNum) (r : Byte) : (s.setFlagThenReg f x r).sp = s.sp := rfl
@[simp] theorem setFlagThenReg_stack (s : State) (f : Byte) (x : RegNum) (r : Byte) : (s.setFlagThenReg f x r).stack = s.stack := rfl
@[simp] theorem setFlagThenReg_dt (s : State) (f : Byte) (x : RegNum) (r : Byte) : (s.setFlagThenReg f x r).dt = s.dt := rfl
@[simp] theorem setFlagThenReg_st (s : State) (f : Byte) (x : RegNum) (r : Byte) : (s.setFlagThenReg f x r).st = s.st := rfl
@[simp] theorem setFlagThenReg_dtIdle (s : State) (f : Byte) (x : RegNum) (r : Byte) : (s.setFlagThenReg f x r).dtIdle = s.dtIdle := rfl
@[simp] theorem setFlagThenReg_stIdle (s : State) (f : Byte) (x : RegNum) (r : Byte) : (s.setFlagThenReg f x r).stIdle = s.stIdle := rfl
@[simp] theorem setFlagThenReg_key (s : State) (f : Byte) (x : RegNum) (r : Byte) : (s.setFlagThenReg f x r).key = s.key := rfl
@[simp] theorem setFlagThenReg_fb (s : State) (f : Byte) (x : RegNum) (r : Byte) : (s.setFlagThenReg f x r).fb = s.fb := rfl
@[simp] theorem setFlagThenReg_mem (s : State) (f : Byte) (x : RegNum) (r : Byte) : (s.setFlagThenReg f x r).mem = s.mem := rfl
@[simp] theorem setFlagThenReg_status (s : State) (f : Byte) (x : RegNum) (r : Byte) : (s.setFlagThenReg f x r).status = s.status := rfl
@[simp] theorem setFlagThenReg_waitX (s : State) (f : Byte) (x : RegNum) (r : Byte) : (s.setFlagThenReg f x r).waitX = s.waitX := rfl
@[simp] theorem setFlagThenReg_faultCause (s : State) (f : Byte) (x : RegNum) (r : Byte) : (s.setFlagThenReg f x r).faultCause = s.faultCause := rfl
@[simp] theorem setFlagThenReg_faultPc (s : State) (f : Byte) (x : RegNum) (r : Byte) : (s.setFlagThenReg f x r).faultPc = s.faultPc := rfl
@[simp] theorem setFlagThenReg_faultWord (s : State) (f : Byte) (x : RegNum) (r : Byte) : (s.setFlagThenReg f x r).faultWord = s.faultWord := rfl
@[simp] theorem setFlagThenReg_faultInfo (s : State) (f : Byte) (x : RegNum) (r : Byte) : (s.setFlagThenReg f x r).faultInfo = s.faultInfo := rfl
@[simp] theorem setFlagThenReg_tag (s : State) (f : Byte) (x : RegNum) (r : Byte) : (s.setFlagThenReg f x r).tag = s.tag := rfl
@[simp] theorem setFlagThenReg_tagHeld (s : State) (f : Byte) (x : RegNum) (r : Byte) : (s.setFlagThenReg f x r).tagHeld = s.tagHeld := rfl
@[simp] theorem setFlagThenReg_draws (s : State) (f : Byte) (x : RegNum) (r : Byte) : (s.setFlagThenReg f x r).draws = s.draws := rfl

/-! ### setKey -/

@[simp] theorem setKey_v (s : State) (k : RegNum) (b : Bool) : (s.setKey k b).v = s.v := rfl
@[simp] theorem setKey_pc (s : State) (k : RegNum) (b : Bool) : (s.setKey k b).pc = s.pc := rfl
@[simp] theorem setKey_i (s : State) (k : RegNum) (b : Bool) : (s.setKey k b).i = s.i := rfl
@[simp] theorem setKey_sp (s : State) (k : RegNum) (b : Bool) : (s.setKey k b).sp = s.sp := rfl
@[simp] theorem setKey_stack (s : State) (k : RegNum) (b : Bool) : (s.setKey k b).stack = s.stack := rfl
@[simp] theorem setKey_dt (s : State) (k : RegNum) (b : Bool) : (s.setKey k b).dt = s.dt := rfl
@[simp] theorem setKey_st (s : State) (k : RegNum) (b : Bool) : (s.setKey k b).st = s.st := rfl
@[simp] theorem setKey_dtIdle (s : State) (k : RegNum) (b : Bool) : (s.setKey k b).dtIdle = s.dtIdle := rfl
@[simp] theorem setKey_stIdle (s : State) (k : RegNum) (b : Bool) : (s.setKey k b).stIdle = s.stIdle := rfl
@[simp] theorem setKey_key (s : State) (k : RegNum) (b : Bool) : (s.setKey k b).key = s.key.set k b := rfl
@[simp] theorem setKey_fb (s : State) (k : RegNum) (b : Bool) : (s.setKey k b).fb = s.fb := rfl
@[simp] theorem setKey_mem (s : State) (k : RegNum) (b : Bool) : (s.setKey k b).mem = s.mem := rfl
@[simp] theorem setKey_status (s : State) (k : RegNum) (b : Bool) : (s.setKey k b).status = s.status := rfl
@[simp] theorem setKey_waitX (s : State) (k : RegNum) (b : Bool) : (s.setKey k b).waitX = s.waitX := rfl
@[simp] theorem setKey_faultCause (s : State) (k : RegNum) (b : Bool) : (s.setKey k b).faultCause = s.faultCause := rfl
@[simp] theorem setKey_faultPc (s : State) (k : RegNum) (b : Bool) : (s.setKey k b).faultPc = s.faultPc := rfl
@[simp] theorem setKey_faultWord (s : State) (k : RegNum) (b : Bool) : (s.setKey k b).faultWord = s.faultWord := rfl
@[simp] theorem setKey_faultInfo (s : State) (k : RegNum) (b : Bool) : (s.setKey k b).faultInfo = s.faultInfo := rfl
@[simp] theorem setKey_tag (s : State) (k : RegNum) (b : Bool) : (s.setKey k b).tag = s.tag := rfl
@[simp] theorem setKey_tagHeld (s : State) (k : RegNum) (b : Bool) : (s.setKey k b).tagHeld = s.tagHeld := rfl
@[simp] theorem setKey_draws (s : State) (k : RegNum) (b : Bool) : (s.setKey k b).draws = s.draws := rfl

/-! ### takeFault -/

@[simp] theorem takeFault_v (t : Trap) (a w : Word) (s : State) : (takeFault t a w s).v = s.v := rfl
@[simp] theorem takeFault_pc (t : Trap) (a w : Word) (s : State) : (takeFault t a w s).pc = s.pc := rfl
@[simp] theorem takeFault_i (t : Trap) (a w : Word) (s : State) : (takeFault t a w s).i = s.i := rfl
@[simp] theorem takeFault_sp (t : Trap) (a w : Word) (s : State) : (takeFault t a w s).sp = s.sp := rfl
@[simp] theorem takeFault_stack (t : Trap) (a w : Word) (s : State) : (takeFault t a w s).stack = s.stack := rfl
@[simp] theorem takeFault_dt (t : Trap) (a w : Word) (s : State) : (takeFault t a w s).dt = s.dt := rfl
@[simp] theorem takeFault_st (t : Trap) (a w : Word) (s : State) : (takeFault t a w s).st = s.st := rfl
@[simp] theorem takeFault_dtIdle (t : Trap) (a w : Word) (s : State) : (takeFault t a w s).dtIdle = s.dtIdle := rfl
@[simp] theorem takeFault_stIdle (t : Trap) (a w : Word) (s : State) : (takeFault t a w s).stIdle = s.stIdle := rfl
@[simp] theorem takeFault_key (t : Trap) (a w : Word) (s : State) : (takeFault t a w s).key = s.key := rfl
@[simp] theorem takeFault_fb (t : Trap) (a w : Word) (s : State) : (takeFault t a w s).fb = s.fb := rfl
@[simp] theorem takeFault_mem (t : Trap) (a w : Word) (s : State) : (takeFault t a w s).mem = s.mem := rfl
@[simp] theorem takeFault_status (t : Trap) (a w : Word) (s : State) : (takeFault t a w s).status = .faulted := rfl
@[simp] theorem takeFault_waitX (t : Trap) (a w : Word) (s : State) : (takeFault t a w s).waitX = s.waitX := rfl
@[simp] theorem takeFault_faultCause (t : Trap) (a w : Word) (s : State) : (takeFault t a w s).faultCause = t.cause := rfl
@[simp] theorem takeFault_faultPc (t : Trap) (a w : Word) (s : State) : (takeFault t a w s).faultPc = a := rfl
@[simp] theorem takeFault_faultWord (t : Trap) (a w : Word) (s : State) : (takeFault t a w s).faultWord = w := rfl
@[simp] theorem takeFault_faultInfo (t : Trap) (a w : Word) (s : State) : (takeFault t a w s).faultInfo = t.info := rfl
@[simp] theorem takeFault_tag (t : Trap) (a w : Word) (s : State) : (takeFault t a w s).tag = s.tag := rfl
@[simp] theorem takeFault_tagHeld (t : Trap) (a w : Word) (s : State) : (takeFault t a w s).tagHeld = s.tagHeld := rfl
@[simp] theorem takeFault_draws (t : Trap) (a w : Word) (s : State) : (takeFault t a w s).draws = s.draws := rfl

/-! ### takeFetchFault -/

@[simp] theorem takeFetchFault_v (s : State) : (takeFetchFault s).v = s.v := rfl
@[simp] theorem takeFetchFault_pc (s : State) : (takeFetchFault s).pc = s.pc := rfl
@[simp] theorem takeFetchFault_i (s : State) : (takeFetchFault s).i = s.i := rfl
@[simp] theorem takeFetchFault_sp (s : State) : (takeFetchFault s).sp = s.sp := rfl
@[simp] theorem takeFetchFault_stack (s : State) : (takeFetchFault s).stack = s.stack := rfl
@[simp] theorem takeFetchFault_dt (s : State) : (takeFetchFault s).dt = s.dt := rfl
@[simp] theorem takeFetchFault_st (s : State) : (takeFetchFault s).st = s.st := rfl
@[simp] theorem takeFetchFault_dtIdle (s : State) : (takeFetchFault s).dtIdle = s.dtIdle := rfl
@[simp] theorem takeFetchFault_stIdle (s : State) : (takeFetchFault s).stIdle = s.stIdle := rfl
@[simp] theorem takeFetchFault_key (s : State) : (takeFetchFault s).key = s.key := rfl
@[simp] theorem takeFetchFault_fb (s : State) : (takeFetchFault s).fb = s.fb := rfl
@[simp] theorem takeFetchFault_mem (s : State) : (takeFetchFault s).mem = s.mem := rfl
@[simp] theorem takeFetchFault_status (s : State) : (takeFetchFault s).status = .faulted := rfl
@[simp] theorem takeFetchFault_waitX (s : State) : (takeFetchFault s).waitX = s.waitX := rfl
@[simp] theorem takeFetchFault_faultCause (s : State) : (takeFetchFault s).faultCause = .fetchOutOfRange := rfl
@[simp] theorem takeFetchFault_faultPc (s : State) : (takeFetchFault s).faultPc = s.pc := rfl
@[simp] theorem takeFetchFault_faultWord (s : State) : (takeFetchFault s).faultWord = 0x0000 := rfl
@[simp] theorem takeFetchFault_faultInfo (s : State) : (takeFetchFault s).faultInfo = s.pc := rfl
@[simp] theorem takeFetchFault_tag (s : State) : (takeFetchFault s).tag = s.tag := rfl
@[simp] theorem takeFetchFault_tagHeld (s : State) : (takeFetchFault s).tagHeld = s.tagHeld := rfl
@[simp] theorem takeFetchFault_draws (s : State) : (takeFetchFault s).draws = s.draws := rfl

/-! ### tick -/

@[simp] theorem tick_v (s : State) : (tick s).v = s.v := rfl
@[simp] theorem tick_pc (s : State) : (tick s).pc = s.pc := rfl
@[simp] theorem tick_i (s : State) : (tick s).i = s.i := rfl
@[simp] theorem tick_sp (s : State) : (tick s).sp = s.sp := rfl
@[simp] theorem tick_stack (s : State) : (tick s).stack = s.stack := rfl
@[simp] theorem tick_dt (s : State) : (tick s).dt = countDown s.dt := rfl
@[simp] theorem tick_st (s : State) : (tick s).st = countDown s.st := rfl
@[simp] theorem tick_dtIdle (s : State) : (tick s).dtIdle = s.dtIdle := rfl
@[simp] theorem tick_stIdle (s : State) : (tick s).stIdle = s.stIdle := rfl
@[simp] theorem tick_key (s : State) : (tick s).key = s.key := rfl
@[simp] theorem tick_fb (s : State) : (tick s).fb = s.fb := rfl
@[simp] theorem tick_mem (s : State) : (tick s).mem = s.mem := rfl
@[simp] theorem tick_status (s : State) : (tick s).status = s.status := rfl
@[simp] theorem tick_waitX (s : State) : (tick s).waitX = s.waitX := rfl
@[simp] theorem tick_faultCause (s : State) : (tick s).faultCause = s.faultCause := rfl
@[simp] theorem tick_faultPc (s : State) : (tick s).faultPc = s.faultPc := rfl
@[simp] theorem tick_faultWord (s : State) : (tick s).faultWord = s.faultWord := rfl
@[simp] theorem tick_faultInfo (s : State) : (tick s).faultInfo = s.faultInfo := rfl
@[simp] theorem tick_tag (s : State) : (tick s).tag = s.tag := rfl
@[simp] theorem tick_tagHeld (s : State) : (tick s).tagHeld = s.tagHeld := rfl
@[simp] theorem tick_draws (s : State) : (tick s).draws = s.draws := rfl

/-! ### placeWord -/

@[simp] theorem placeWord_v (a : Nat) (w : Word) (s : State) : (placeWord a w s).v = s.v := rfl
@[simp] theorem placeWord_pc (a : Nat) (w : Word) (s : State) : (placeWord a w s).pc = s.pc := rfl
@[simp] theorem placeWord_i (a : Nat) (w : Word) (s : State) : (placeWord a w s).i = s.i := rfl
@[simp] theorem placeWord_sp (a : Nat) (w : Word) (s : State) : (placeWord a w s).sp = s.sp := rfl
@[simp] theorem placeWord_stack (a : Nat) (w : Word) (s : State) : (placeWord a w s).stack = s.stack := rfl
@[simp] theorem placeWord_dt (a : Nat) (w : Word) (s : State) : (placeWord a w s).dt = s.dt := rfl
@[simp] theorem placeWord_st (a : Nat) (w : Word) (s : State) : (placeWord a w s).st = s.st := rfl
@[simp] theorem placeWord_dtIdle (a : Nat) (w : Word) (s : State) : (placeWord a w s).dtIdle = s.dtIdle := rfl
@[simp] theorem placeWord_stIdle (a : Nat) (w : Word) (s : State) : (placeWord a w s).stIdle = s.stIdle := rfl
@[simp] theorem placeWord_key (a : Nat) (w : Word) (s : State) : (placeWord a w s).key = s.key := rfl
@[simp] theorem placeWord_fb (a : Nat) (w : Word) (s : State) : (placeWord a w s).fb = s.fb := rfl
@[simp] theorem placeWord_mem (a : Nat) (w : Word) (s : State) : (placeWord a w s).mem = s.mem.writeWord a w := rfl
@[simp] theorem placeWord_status (a : Nat) (w : Word) (s : State) : (placeWord a w s).status = .run := rfl
@[simp] theorem placeWord_waitX (a : Nat) (w : Word) (s : State) : (placeWord a w s).waitX = s.waitX := rfl
@[simp] theorem placeWord_faultCause (a : Nat) (w : Word) (s : State) : (placeWord a w s).faultCause = s.faultCause := rfl
@[simp] theorem placeWord_faultPc (a : Nat) (w : Word) (s : State) : (placeWord a w s).faultPc = s.faultPc := rfl
@[simp] theorem placeWord_faultWord (a : Nat) (w : Word) (s : State) : (placeWord a w s).faultWord = s.faultWord := rfl
@[simp] theorem placeWord_faultInfo (a : Nat) (w : Word) (s : State) : (placeWord a w s).faultInfo = s.faultInfo := rfl
@[simp] theorem placeWord_tag (a : Nat) (w : Word) (s : State) : (placeWord a w s).tag = s.tag := rfl
@[simp] theorem placeWord_tagHeld (a : Nat) (w : Word) (s : State) : (placeWord a w s).tagHeld = s.tagHeld := rfl
@[simp] theorem placeWord_draws (a : Nat) (w : Word) (s : State) : (placeWord a w s).draws = s.draws := rfl

end Sys2Proof.Machine
end

