-- ==== Sys2Proof/Laws/Ops.lean ====
section
/-!
SUPPORT. What each shared operation of the machine can do, said once: the frame of a step, the checks, the stack, the
key lines, the register transfers and the ports.
-/

namespace Sys2Proof.Machine

/-! ### The frame of a step -/

theorem perform_ok {ins : Instr} {body : Body} {s t : State} (h : body s.advance = .ok t) :
    perform ins body s = .next (t.setTag (opTag ins.op)) := by
  simp [perform, h]

theorem perform_error {ins : Instr} {body : Body} {s : State} {t : Trap} (h : body s.advance = .error t) :
    perform ins body s = .next ((takeFault t s.pc (encode ins) s).setTag (opTag ins.op)) := by
  simp [perform, h]

/-- A performed instruction answers a next state, and it is one of two: the body's own with TAG written, or the state
before the step with the fault entered and TAG written. -/
theorem perform_cases {ins : Instr} {body : Body} {s u : State} (h : perform ins body s = .next u) :
    (∃ t, body s.advance = .ok t ∧ u = t.setTag (opTag ins.op)) ∨
    (∃ e, body s.advance = .error e ∧ u = (takeFault e s.pc (encode ins) s).setTag (opTag ins.op)) := by
  unfold perform at h
  split at h
  · rename_i t ht
    cases h
    exact .inl ⟨t, ht, rfl⟩
  · rename_i e he
    cases h
    exact .inr ⟨e, he, rfl⟩

theorem perform_next (ins : Instr) (body : Body) (s : State) : ∃ u, perform ins body s = .next u := by
  unfold perform
  split <;> exact ⟨_, rfl⟩

/-! ### Registers -/

theorem reg_setReg (s : State) (x y : RegNum) (b : Byte) : (s.setReg x b).reg y = if x = y then b else s.reg y := by
  simp [State.reg, State.setReg, Vector.getElem_set, Fin.ext_iff]

@[simp] theorem reg_setReg_self (s : State) (x : RegNum) (b : Byte) : (s.setReg x b).reg x = b := by
  simp [reg_setReg]

theorem reg_setFlagThenReg (s : State) (f : Byte) (x y : RegNum) (r : Byte) :
    (s.setFlagThenReg f x r).reg y = if x = y then r else if vf = y then f else s.reg y := by
  simp [State.setFlagThenReg, reg_setReg]

@[simp] theorem advance_reg (s : State) (x : RegNum) : s.advance.reg x = s.reg x := rfl
@[simp] theorem setTag_reg (s : State) (t : Word) (x : RegNum) : (s.setTag t).reg x = s.reg x := rfl
@[simp] theorem takeFault_reg (t : Trap) (a w : Word) (s : State) (x : RegNum) : (takeFault t a w s).reg x = s.reg x :=
  rfl

/-! ### Checks -/

theorem checked_true {ok : Bool} {cause : FaultCause} {info : Word} {rest : Except Trap State} (h : ok = true) :
    checked ok cause info rest = rest := by
  simp [checked, h]

theorem checked_false {ok : Bool} {cause : FaultCause} {info : Word} {rest : Except Trap State} (h : ok = false) :
    checked ok cause info rest = .error ⟨cause, info⟩ := by
  simp [checked, h]

/-- All values in range: the rest of the pseudocode runs. -/
theorem checkedAll_ok {top : Nat} {cause : FaultCause} {as : List Nat} {rest : Except Trap State}
    (h : ∀ a ∈ as, a ≤ top) : checkedAll top cause as rest = rest := by
  unfold checkedAll
  rw [List.find?_eq_none.mpr (by simpa using h)]

/-- Some value out of range: the fault reports the lowest such value of a rising list (60_exceptions.md R227). -/
theorem checkedAll_error {top : Nat} {cause : FaultCause} {as : List Nat} {rest : Except Trap State} {a : Nat}
    (hs : as.Pairwise (· < ·)) (ha : a ∈ as) (hlt : top < a) (hmin : ∀ b ∈ as, top < b → a ≤ b) :
    checkedAll top cause as rest = .error ⟨cause, BitVec.ofNat 16 a⟩ := by
  have : as.find? (fun a => decide (top < a)) = some a := by
    induction as with
    | nil => simp at ha
    | cons c cs ih =>
      rw [List.find?_cons]
      by_cases hc : top < c
      · have h1 := hmin c (by simp) hc
        have : c = a := by
          rcases List.mem_cons.mp ha with h | h
          · exact h.symm
          · have := (List.pairwise_cons.mp hs).1 a h
            omega
        subst this
        simp [hc]
      · have hca : a ≠ c := by rintro rfl; exact hc hlt
        simp only [hc, decide_false]
        exact ih (List.pairwise_cons.mp hs).2 (by simpa [hca] using ha) fun b hb => hmin b (by simp [hb])
  simp [checkedAll, this]

/-- The two outcomes of a check over a rising list. -/
theorem checkedAll_cases (top : Nat) (cause : FaultCause) (as : List Nat) (rest : Except Trap State)
    (hs : as.Pairwise (· < ·)) :
    ((∀ a ∈ as, a ≤ top) ∧ checkedAll top cause as rest = rest) ∨
    (∃ a ∈ as, top < a ∧ (∀ b ∈ as, top < b → a ≤ b) ∧
      checkedAll top cause as rest = .error ⟨cause, BitVec.ofNat 16 a⟩) := by
  by_cases h : ∀ a ∈ as, a ≤ top
  · exact .inl ⟨h, checkedAll_ok h⟩
  · push Not at h
    have hex : ∃ a, a ∈ as ∧ top < a := by obtain ⟨a, h1, h2⟩ := h; exact ⟨a, h1, h2⟩
    classical
    have hspec := Nat.find_spec hex
    have hmin : ∀ b ∈ as, top < b → Nat.find hex ≤ b := fun b hb hlt => Nat.find_min' hex ⟨hb, hlt⟩
    exact .inr ⟨_, hspec.1, hspec.2, hmin, checkedAll_error hs hspec.1 hspec.2 hmin⟩

@[simp] theorem mem_span {a b n : Nat} : a ∈ span b n ↔ b ≤ a ∧ a < b + n := by
  simp only [span, List.mem_map, List.mem_range]
  constructor
  · rintro ⟨j, hj, rfl⟩; omega
  · intro h; exact ⟨a - b, by omega, by omega⟩

theorem span_pairwise (b n : Nat) : (span b n).Pairwise (· < ·) := by
  simp only [span, List.pairwise_map]
  exact List.pairwise_lt_range.imp (by omega)

/-- The check of n addresses from b: it passes when the last one exists, and otherwise reports the lowest one that does
not. -/
theorem checkedAll_span (cause : FaultCause) (b n : Nat) (rest : Except Trap State) :
    checkedAll 0xFFF cause (span b n) rest =
      if n = 0 ∨ b + n ≤ 0x1000 then rest else .error ⟨cause, BitVec.ofNat 16 (max b (0x1000))⟩ := by
  split
  · apply checkedAll_ok
    intro a ha
    rw [mem_span] at ha
    omega
  · apply checkedAll_error (span_pairwise b n)
    · rw [mem_span]; omega
    · omega
    · intro c hc hlt
      rw [mem_span] at hc
      omega

/-! ### Fetch -/

theorem fetch_some {s : State} (h : s.pc.toNat ≤ 0xFFE) : fetch s = some (s.mem.readWord s.pc.toNat) := by
  simp [fetch, show s.pc.toNat + 1 ≤ 0xFFF by omega]

theorem fetch_none {s : State} (h : 0xFFE < s.pc.toNat) : fetch s = none := by
  simp [fetch]; omega

/-! ### The return stack -/

theorem pushThen_ok {p : Word} {rest : Body} {s : State} (h : s.sp.val < 16) :
    pushThen p rest s = rest { s with stack := s.stack.set s.sp.val p, sp := ⟨s.sp.val + 1, by omega⟩ } := by
  simp [pushThen, h]

theorem pushThen_full {p : Word} {rest : Body} {s : State} (h : s.sp.val = 16) :
    pushThen p rest s = .error ⟨.stackOverflow, 16⟩ := by
  simp [pushThen, h]

theorem popThen_ok {rest : Word → Body} {s : State} (h : 0 < s.sp.val) :
    popThen rest s =
      rest (s.stack[s.sp.val - 1]'(by have := s.sp.isLt; omega))
        { s with sp := ⟨s.sp.val - 1, by have := s.sp.isLt; omega⟩ } := by
  simp [popThen, h]

theorem popThen_empty {rest : Word → Body} {s : State} (h : s.sp.val = 0) :
    popThen rest s = .error ⟨.stackUnderflow, 0⟩ := by
  simp [popThen, h]

/-! ### Key lines -/

theorem lowestKey_none {s : State} : lowestKey s = none ↔ ∀ k : RegNum, s.key[k] = false := by
  simp [lowestKey, State.keyLine, List.find?_eq_none, List.mem_finRange]

/-- The lowest asserted line, as 45_keypad.md R203 says it. -/
theorem lowestKey_some {s : State} {k : RegNum} :
    lowestKey s = some k ↔ s.key[k] = true ∧ ∀ j : RegNum, j < k → s.key[j] = false := by
  have hp : (List.finRange 16).Pairwise (· < ·) := by decide
  unfold lowestKey State.keyLine
  constructor
  · intro h
    refine ⟨by simpa using List.find?_some h, fun j hj => ?_⟩
    obtain ⟨_, as, bs, heq, has⟩ := List.find?_eq_some_iff_append.mp h
    have hmem : j ∈ as ++ k :: bs := heq ▸ List.mem_finRange j
    rw [heq, List.pairwise_append] at hp
    rcases List.mem_append.mp hmem with hj' | hj'
    · simpa using has j hj'
    · rcases List.mem_cons.mp hj' with rfl | hj''
      · exact absurd hj (lt_irrefl _)
      · have := (List.pairwise_cons.mp hp.2.1).1 j hj''
        exact absurd (hj.trans this) (lt_irrefl _)
  · rintro ⟨h1, h2⟩
    obtain ⟨as, bs, heq⟩ := List.append_of_mem (List.mem_finRange k)
    refine List.find?_eq_some_iff_append.mpr ⟨h1, as, bs, heq, fun j hj => ?_⟩
    rw [heq, List.pairwise_append] at hp
    simp [h2 j (hp.2.2 j hj k (by simp))]

theorem waitComplete_not_waiting {s : State} (h : s.status ≠ .waitKey) : waitComplete s = s := by
  unfold waitComplete
  split <;> simp_all

theorem waitComplete_none {s : State} (h : ∀ k : RegNum, s.key[k] = false) : waitComplete s = s := by
  unfold waitComplete
  rw [lowestKey_none.mpr h]
  split <;> simp_all

theorem waitComplete_some {s : State} {k : RegNum} (hs : s.status = .waitKey) (h : s.key[k] = true)
    (hmin : ∀ j : RegNum, j < k → s.key[j] = false) :
    waitComplete s = { s.setReg s.waitX (keyByte k) with status := .run } := by
  simp [waitComplete, hs, lowestKey_some.mpr ⟨h, hmin⟩]

/-! ### Register transfers -/

theorem loadRegs_eq (s : State) (k : Nat) (bs : List Byte) : loadRegs s k bs = { s with v := (loadRegs s k bs).v } := by
  induction bs generalizing s k with
  | nil => rfl
  | cons b bs ih => rw [loadRegs]; rw [ih]

/-- The registers after a transfer from memory: the loaded ones hold their bytes, the others their old values. -/
theorem loadRegs_get (s : State) (k : Nat) (bs : List Byte) (j : RegNum) :
    (loadRegs s k bs).v[j] = if k ≤ j.val then (bs[j.val - k]?).getD s.v[j] else s.v[j] := by
  induction bs generalizing s k with
  | nil => simp [loadRegs]
  | cons b bs ih =>
    rw [loadRegs, ih]
    rcases Nat.lt_trichotomy j.val k with hlt | heq | hgt
    · simp [show ¬ k ≤ j.val by omega, show ¬ k + 1 ≤ j.val by omega, show k ≠ j.val by omega]
    · subst heq
      simp
    · have hsub : j.val - k = (j.val - (k + 1)) + 1 := by omega
      simp [show k ≤ j.val by omega, show k + 1 ≤ j.val by omega, hsub, show k ≠ j.val by omega]

@[simp] theorem length_regsUpTo (s : State) (x : RegNum) : (regsUpTo s x).length = x.val + 1 := by
  simp [regsUpTo]

theorem getElem?_regsUpTo (s : State) (x j : RegNum) (h : j ≤ x) : (regsUpTo s x)[j.val]? = some s.v[j] := by
  have hj : j.val < x.val + 1 := by have := Fin.le_def.mp h; omega
  simp [regsUpTo, hj]

/-! ### Faults -/

theorem resume_faulted {p : Word} {s : State} (h : s.status = .faulted) :
    resume p s = { s with pc := p, faultCause := .none, status := .run } := by
  simp [resume, h]

theorem resume_other {p : Word} {s : State} (h : s.status ≠ .faulted) : resume p s = s := by
  unfold resume
  split <;> simp_all

end Sys2Proof.Machine
end

