-- ==== Sys2Proof/Laws/Exec.lean ====
section
/-!
SUPPORT. What holds of every instruction: it is a performed body, it answers a next state and it writes its tag; and that
every step and every port action answers a next state.
-/

namespace Sys2Proof.Machine

/-- Every instruction is a performed body (30_encoding.md R95). -/
theorem exec_perform (i : Instr) : ∃ body : Body, ∀ s, exec i s = perform i body s := by
  cases i <;> exact ⟨_, fun _ => by unfold exec; rfl⟩

theorem exec_next (i : Instr) (s : State) : ∃ t, exec i s = .next t := by
  obtain ⟨body, h⟩ := exec_perform i
  rw [h]
  exact perform_next i body s

/-! ### The step in each status (60_exceptions.md R238) -/

theorem step_fetched {s : State} {w : Word} (hs : s.status = .run) (hf : fetch s = some w) :
    step s = exec (decode w) s := by
  unfold step
  rw [hs]
  simp only [hf]

theorem step_unfetched {s : State} (hs : s.status = .run) (hf : fetch s = none) :
    step s = .next (takeFetchFault s) := by
  unfold step
  rw [hs]
  simp only [hf]

theorem step_waiting {s : State} (hs : s.status = .waitKey) : step s = .next (waitComplete s) := by
  unfold step
  rw [hs]

theorem step_faulted {s : State} (hs : s.status = .faulted) : step s = .next s := by
  unfold step
  rw [hs]

theorem step_next (s : State) : ∃ t, step s = .next t := by
  unfold step
  split
  · split
    · exact exec_next _ _
    · exact ⟨_, rfl⟩
  · exact ⟨_, rfl⟩
  · exact ⟨_, rfl⟩

theorem act_next (a : PortAction) (s : State) : ∃ t, act a s = .next t := by
  cases a <;> first | exact step_next s | exact ⟨_, rfl⟩

/-- The tags are distinct (30_encoding.md R100). -/
theorem opTag_injective {a b : Op} (h : opTag a = opTag b) : a = b := by
  cases a <;> cases b <;> first | rfl | exact absurd h (by decide)

/-- Every instruction writes its tag (30_encoding.md R99). -/
theorem exec_tag {i : Instr} {s t : State} (h : exec i s = .next t) : t.tag = opTag i.op ∧ t.tagHeld = true := by
  obtain ⟨body, hb⟩ := exec_perform i
  rw [hb] at h
  rcases perform_cases h with ⟨u, -, rfl⟩ | ⟨e, -, rfl⟩ <;> exact ⟨rfl, rfl⟩

end Sys2Proof.Machine
end

