-- ==== Sys2Proof/Laws/PerInstr.lean ====
section
/-!
SUPPORT. The family RowFixed: the word of a well-formed instruction has the fixed bits of its row of
spec/opcode_table.json.
-/

namespace Sys2Proof.Laws.RowFixed

/-- The nibbles that a row's mask fixes, from its "mask" and "match": bits 15:12, 7:4 and 3:0 (bits 11:8 are never
fixed). -/
def fixedNibbles : Op → Option Nibble × Option Nibble × Option Nibble
  | .CLS => (some 0x0, none, some 0x0)
  | .RET => (some 0x0, none, some 0xe)
  | .SYS => (some 0x0, none, none)
  | .JP => (some 0x1, none, none)
  | .CALL => (some 0x2, none, none)
  | .SE_IMM => (some 0x3, none, none)
  | .SNE_IMM => (some 0x4, none, none)
  | .SE_REG => (some 0x5, none, none)
  | .LD_IMM => (some 0x6, none, none)
  | .ADD_IMM => (some 0x7, none, none)
  | .LD_REG => (some 0x8, none, some 0x0)
  | .OR => (some 0x8, none, some 0x1)
  | .AND => (some 0x8, none, some 0x2)
  | .XOR => (some 0x8, none, some 0x3)
  | .ADD_REG => (some 0x8, none, some 0x4)
  | .SUB => (some 0x8, none, some 0x5)
  | .SHR => (some 0x8, none, some 0x6)
  | .SUBN => (some 0x8, none, some 0x7)
  | .SHL => (some 0x8, none, some 0xe)
  | .SNE_REG => (some 0x9, none, none)
  | .LD_I => (some 0xa, none, none)
  | .JP_V0 => (some 0xb, none, none)
  | .RND => (some 0xc, none, none)
  | .DRW => (some 0xd, none, none)
  | .SKP => (some 0xe, none, some 0xe)
  | .SKNP => (some 0xe, none, some 0x1)
  | .LD_VX_DT => (some 0xf, none, some 0x7)
  | .LD_VX_K => (some 0xf, none, some 0xa)
  | .LD_DT_VX => (some 0xf, some 0x1, some 0x5)
  | .LD_ST_VX => (some 0xf, none, some 0x8)
  | .ADD_I_VX => (some 0xf, none, some 0xe)
  | .LD_F_VX => (some 0xf, none, some 0x9)
  | .LD_B_VX => (some 0xf, none, some 0x3)
  | .LD_MEM_VX => (some 0xf, some 0x5, some 0x5)
  | .LD_VX_MEM => (some 0xf, some 0x6, some 0x5)
  | .INVALID => (none, none, none)

/-- A word has the fixed bits of a row. -/
def rowFits (row : Option Nibble × Option Nibble × Option Nibble) (w : Word) : Prop :=
  (∀ n, row.1 = some n → nib3 w = n) ∧ (∀ n, row.2.1 = some n → nib1 w = n) ∧ (∀ n, row.2.2 = some n → nib0 w = n)

/-- The statement of the family, for one instruction. -/
def Statement (i : Instr) : Prop := i.wf = true → rowFits (fixedNibbles i.op) (encode i)

theorem sys (nnn : Imm12) : Statement (.sys nnn) := by
  intro _; simp [rowFits, fixedNibbles, encode, Instr.op]
theorem ret (ign : Byte) : Statement (.ret ign) := by
  intro _; simp [rowFits, fixedNibbles, encode, Instr.op]
theorem jp (nnn : Imm12) : Statement (.jp nnn) := by
  intro _; simp [rowFits, fixedNibbles, encode, Instr.op]
theorem call (nnn : Imm12) : Statement (.call nnn) := by
  intro _; simp [rowFits, fixedNibbles, encode, Instr.op]
theorem jpV0 (nnn : Imm12) : Statement (.jpV0 nnn) := by
  intro _; simp [rowFits, fixedNibbles, encode, Instr.op]
theorem seImm (x : RegNum) (kk : Byte) : Statement (.seImm x kk) := by
  intro _; simp [rowFits, fixedNibbles, encode, Instr.op]
theorem sneImm (x : RegNum) (kk : Byte) : Statement (.sneImm x kk) := by
  intro _; simp [rowFits, fixedNibbles, encode, Instr.op]
theorem seReg (x y : RegNum) (ign : Nibble) : Statement (.seReg x y ign) := by
  intro _; simp [rowFits, fixedNibbles, encode, Instr.op]
theorem sneReg (x y : RegNum) (ign : Nibble) : Statement (.sneReg x y ign) := by
  intro _; simp [rowFits, fixedNibbles, encode, Instr.op]
theorem ldImm (x : RegNum) (kk : Byte) : Statement (.ldImm x kk) := by
  intro _; simp [rowFits, fixedNibbles, encode, Instr.op]
theorem addImm (x : RegNum) (kk : Byte) : Statement (.addImm x kk) := by
  intro _; simp [rowFits, fixedNibbles, encode, Instr.op]
theorem ldReg (x y : RegNum) : Statement (.ldReg x y) := by
  intro _; simp [rowFits, fixedNibbles, encode, Instr.op]
theorem orReg (x y : RegNum) : Statement (.orReg x y) := by
  intro _; simp [rowFits, fixedNibbles, encode, Instr.op]
theorem andReg (x y : RegNum) : Statement (.andReg x y) := by
  intro _; simp [rowFits, fixedNibbles, encode, Instr.op]
theorem xorReg (x y : RegNum) : Statement (.xorReg x y) := by
  intro _; simp [rowFits, fixedNibbles, encode, Instr.op]
theorem addReg (x y : RegNum) : Statement (.addReg x y) := by
  intro _; simp [rowFits, fixedNibbles, encode, Instr.op]
theorem sub (x y : RegNum) : Statement (.sub x y) := by
  intro _; simp [rowFits, fixedNibbles, encode, Instr.op]
theorem shr (x y : RegNum) : Statement (.shr x y) := by
  intro _; simp [rowFits, fixedNibbles, encode, Instr.op]
theorem subn (x y : RegNum) : Statement (.subn x y) := by
  intro _; simp [rowFits, fixedNibbles, encode, Instr.op]
theorem shl (x y : RegNum) : Statement (.shl x y) := by
  intro _; simp [rowFits, fixedNibbles, encode, Instr.op]
theorem rnd (x : RegNum) (kk : Byte) : Statement (.rnd x kk) := by
  intro _; simp [rowFits, fixedNibbles, encode, Instr.op]
theorem ldI (nnn : Imm12) : Statement (.ldI nnn) := by
  intro _; simp [rowFits, fixedNibbles, encode, Instr.op]
theorem addIVx (x : RegNum) (ign : Nibble) : Statement (.addIVx x ign) := by
  intro _; simp [rowFits, fixedNibbles, encode, Instr.op]
theorem ldFVx (x : RegNum) (ign : Nibble) : Statement (.ldFVx x ign) := by
  intro _; simp [rowFits, fixedNibbles, encode, Instr.op]
theorem ldBVx (x : RegNum) (ign : Nibble) : Statement (.ldBVx x ign) := by
  intro _; simp [rowFits, fixedNibbles, encode, Instr.op]
theorem ldMemVx (x : RegNum) : Statement (.ldMemVx x) := by
  intro _; simp [rowFits, fixedNibbles, encode, Instr.op]
theorem ldVxMem (x : RegNum) : Statement (.ldVxMem x) := by
  intro _; simp [rowFits, fixedNibbles, encode, Instr.op]
theorem cls (ign : Byte) : Statement (.cls ign) := by
  intro _; simp [rowFits, fixedNibbles, encode, Instr.op]
theorem drw (x y : RegNum) (n : Fin 16) : Statement (.drw x y n) := by
  intro _; simp [rowFits, fixedNibbles, encode, Instr.op]
theorem skp (x : RegNum) (ign : Nibble) : Statement (.skp x ign) := by
  intro _; simp [rowFits, fixedNibbles, encode, Instr.op]
theorem sknp (x : RegNum) (ign : Nibble) : Statement (.sknp x ign) := by
  intro _; simp [rowFits, fixedNibbles, encode, Instr.op]
theorem ldVxK (x : RegNum) (ign : Nibble) : Statement (.ldVxK x ign) := by
  intro _; simp [rowFits, fixedNibbles, encode, Instr.op]
theorem ldVxDt (x : RegNum) (ign : Nibble) : Statement (.ldVxDt x ign) := by
  intro _; simp [rowFits, fixedNibbles, encode, Instr.op]
theorem ldDtVx (x : RegNum) : Statement (.ldDtVx x) := by
  intro _; simp [rowFits, fixedNibbles, encode, Instr.op]
theorem ldStVx (x : RegNum) (ign : Nibble) : Statement (.ldStVx x ign) := by
  intro _; simp [rowFits, fixedNibbles, encode, Instr.op]
theorem invalid (w : Word) : Statement (.invalid w) := by
  intro _; simp [rowFits, fixedNibbles, encode, Instr.op]

end Sys2Proof.Laws.RowFixed
end

