-- ==== Sys2Proof/Machine/Assembler.lean ====
section
/-!
DEFINITION. The assembler syntax (30_encoding.md R101, R102): one constructor of `Line` per line of the table of R101 and
one for the data directive, the text of a line, and the bytes a line assembles to.
-/

namespace Sys2Proof.Machine

/-- A line of assembler source: a mnemonic of 30_encoding.md R101 with its operands, or `DB b0, b1, ...` (R102). -/
inductive Line where
  | cls
  | ret
  | sys (nnn : Imm12)
  | jp (nnn : Imm12)
  | call (nnn : Imm12)
  | seImm (x : RegNum) (kk : Byte)
  | sneImm (x : RegNum) (kk : Byte)
  | seReg (x y : RegNum)
  | ldImm (x : RegNum) (kk : Byte)
  | addImm (x : RegNum) (kk : Byte)
  | ldReg (x y : RegNum)
  | orReg (x y : RegNum)
  | andReg (x y : RegNum)
  | xorReg (x y : RegNum)
  | addReg (x y : RegNum)
  | sub (x y : RegNum)
  | shr (x : RegNum) (y : Option RegNum)
  | subn (x y : RegNum)
  | shl (x : RegNum) (y : Option RegNum)
  | sneReg (x y : RegNum)
  | ldI (nnn : Imm12)
  | jpV0 (nnn : Imm12)
  | rnd (x : RegNum) (kk : Byte)
  | drw (x y : RegNum) (n : Fin 16)
  | skp (x : RegNum)
  | sknp (x : RegNum)
  | ldVxDt (x : RegNum)
  | ldVxK (x : RegNum)
  | ldDtVx (x : RegNum)
  | ldStVx (x : RegNum)
  | addIVx (x : RegNum)
  | ldFVx (x : RegNum)
  | ldBVx (x : RegNum)
  | ldMemVx (x : RegNum)
  | ldVxMem (x : RegNum)
  | db (bytes : List Byte)
deriving DecidableEq, Repr

/-- A number in hex of at least `digits` digits, with the prefix 0x (30_encoding.md R101). -/
def hexText (digits n : Nat) : String :=
  let ds := (Nat.toDigits 16 n).map Char.toUpper
  "0x" ++ String.ofList (List.replicate (digits - ds.length) '0' ++ ds)

/-- `V0`..`VF`. -/
def regText (x : RegNum) : String := "V" ++ String.ofList ((Nat.toDigits 16 x.val).map Char.toUpper)

/-- Two operands. -/
def pairText (a b : String) : String := a ++ ", " ++ b

/-- The optional second operand of SHR and SHL. -/
def optRegText (x : RegNum) : Option RegNum → String
  | none => regText x
  | some y => pairText (regText x) (regText y)

/-- The text of a line in the syntax of 30_encoding.md R101 and R102. -/
def lineText : Line → String
  | .cls => "CLS"
  | .ret => "RET"
  | .sys nnn => "SYS " ++ hexText 3 nnn.toNat
  | .jp nnn => "JP " ++ hexText 3 nnn.toNat
  | .call nnn => "CALL " ++ hexText 3 nnn.toNat
  | .seImm x kk => "SE " ++ pairText (regText x) (hexText 2 kk.toNat)
  | .sneImm x kk => "SNE " ++ pairText (regText x) (hexText 2 kk.toNat)
  | .seReg x y => "SE " ++ pairText (regText x) (regText y)
  | .ldImm x kk => "LD " ++ pairText (regText x) (hexText 2 kk.toNat)
  | .addImm x kk => "ADD " ++ pairText (regText x) (hexText 2 kk.toNat)
  | .ldReg x y => "LD " ++ pairText (regText x) (regText y)
  | .orReg x y => "OR " ++ pairText (regText x) (regText y)
  | .andReg x y => "AND " ++ pairText (regText x) (regText y)
  | .xorReg x y => "XOR " ++ pairText (regText x) (regText y)
  | .addReg x y => "ADD " ++ pairText (regText x) (regText y)
  | .sub x y => "SUB " ++ pairText (regText x) (regText y)
  | .shr x y => "SHR " ++ optRegText x y
  | .subn x y => "SUBN " ++ pairText (regText x) (regText y)
  | .shl x y => "SHL " ++ optRegText x y
  | .sneReg x y => "SNE " ++ pairText (regText x) (regText y)
  | .ldI nnn => "LD " ++ pairText "I" (hexText 3 nnn.toNat)
  | .jpV0 nnn => "JP " ++ pairText "V0" (hexText 3 nnn.toNat)
  | .rnd x kk => "RND " ++ pairText (regText x) (hexText 2 kk.toNat)
  | .drw x y n => "DRW " ++ pairText (pairText (regText x) (regText y)) (toString n.val)
  | .skp x => "SKP " ++ regText x
  | .sknp x => "SKNP " ++ regText x
  | .ldVxDt x => "LD " ++ pairText (regText x) "DT"
  | .ldVxK x => "LD " ++ pairText (regText x) "K"
  | .ldDtVx x => "LD " ++ pairText "DT" (regText x)
  | .ldStVx x => "LD " ++ pairText "ST" (regText x)
  | .addIVx x => "ADD " ++ pairText "I" (regText x)
  | .ldFVx x => "LD " ++ pairText "F" (regText x)
  | .ldBVx x => "LD " ++ pairText "B" (regText x)
  | .ldMemVx x => "LD " ++ pairText "[I]" (regText x)
  | .ldVxMem x => "LD " ++ pairText (regText x) "[I]"
  | .db bs => "DB " ++ ", ".intercalate (bs.map fun b => hexText 2 b.toNat)

/-- The instruction a line stands for: its source pattern (30_encoding.md R80) gives the bits that decode ignores, 0 where
the pattern gives none; SHR and SHL without Vy have Y = 0; a SYS that would encode CLS or RET is rejected (R101). A data
directive is no instruction. -/
def lineInstr : Line → Option Instr
  | .cls => some (.cls 0x0E)
  | .ret => some (.ret 0x0E)
  | .sys nnn => if (Instr.sys nnn).wf then some (.sys nnn) else none
  | .jp nnn => some (.jp nnn)
  | .call nnn => some (.call nnn)
  | .seImm x kk => some (.seImm x kk)
  | .sneImm x kk => some (.sneImm x kk)
  | .seReg x y => some (.seReg x y 0x0)
  | .ldImm x kk => some (.ldImm x kk)
  | .addImm x kk => some (.addImm x kk)
  | .ldReg x y => some (.ldReg x y)
  | .orReg x y => some (.orReg x y)
  | .andReg x y => some (.andReg x y)
  | .xorReg x y => some (.xorReg x y)
  | .addReg x y => some (.addReg x y)
  | .sub x y => some (.sub x y)
  | .shr x y => some (.shr x (y.getD 0))
  | .subn x y => some (.subn x y)
  | .shl x y => some (.shl x (y.getD 0))
  | .sneReg x y => some (.sneReg x y 0x0)
  | .ldI nnn => some (.ldI nnn)
  | .jpV0 nnn => some (.jpV0 nnn)
  | .rnd x kk => some (.rnd x kk)
  | .drw x y n => some (.drw x y n)
  | .skp x => some (.skp x 0x9)
  | .sknp x => some (.sknp x 0xA)
  | .ldVxDt x => some (.ldVxDt x 0x0)
  | .ldVxK x => some (.ldVxK x 0x0)
  | .ldDtVx x => some (.ldDtVx x)
  | .ldStVx x => some (.ldStVx x 0x1)
  | .addIVx x => some (.addIVx x 0x1)
  | .ldFVx x => some (.ldFVx x 0x2)
  | .ldBVx x => some (.ldBVx x 0x3)
  | .ldMemVx x => some (.ldMemVx x)
  | .ldVxMem x => some (.ldVxMem x)
  | .db _ => none

/-- The bytes a line assembles to, big-endian (20_memory.md R54); none where the assembler rejects it. -/
def lineBytes (l : Line) : Option (List Byte) :=
  match l with
  | .db bs => some bs
  | l => (lineInstr l).map fun i => [hiByte (encode i), loByte (encode i)]

/-- The bytes of a program, its lines in order (30_encoding.md R102). -/
def assemble : List Line → Option (List Byte)
  | [] => some []
  | l :: ls =>
    match lineBytes l, assemble ls with
    | some bs, some rest => some (bs ++ rest)
    | _, _ => none

end Sys2Proof.Machine
end

