-- ==== Sys2Proof/Tests/Slice0.lean ====
section
/-!
SUPPORT. The model's own tests: the smoke test of WellFormed, one word per constructor written out from the spec's
encoding, and small single steps with the results of 95_test_vectors.md.
-/

namespace Sys2Proof.Tests

open Sys2Proof.Machine

/-! ### WellFormed refuses each kind of ill-formed term -/

theorem test_wf_refuses_sys_word_of_cls : (Instr.sys 0x120).wf = false := by decide
theorem test_wf_refuses_sys_word_of_ret : (Instr.sys 0x01E).wf = false := by decide
theorem test_wf_refuses_invalid_word_of_jp : (Instr.invalid 0x1234).wf = false := by decide
theorem test_wf_refuses_invalid_word_of_alu : (Instr.invalid 0x8AB4).wf = false := by decide
theorem test_wf_refuses_invalid_word_of_key : (Instr.invalid 0xE19E).wf = false := by decide
theorem test_wf_refuses_invalid_word_of_f_family : (Instr.invalid 0xF165).wf = false := by decide
theorem test_wf_accepts_sys : (Instr.sys 0x123).wf = true := by decide
theorem test_wf_accepts_invalid : (Instr.invalid 0xF331).wf = true ∧ (Instr.invalid 0x8ABA).wf = true := by decide

/-! ### Decoding: words written out from 30_encoding.md R82 to R87 (and 95_test_vectors.md V-DEC) -/

theorem test_decode_sys : decode 0b0000000011101101 = .sys 0x0ED := by decide
theorem test_decode_ret : decode 0b0000000011101110 = .ret 0x0E ∧ decode 0x0FFE = .ret 0xFF := by decide
theorem test_decode_jp : decode 0b0001001000110100 = .jp 0x234 := by decide
theorem test_decode_call : decode 0b0010111111111111 = .call 0xFFF := by decide
theorem test_decode_jpV0 : decode 0b1011000100100011 = .jpV0 0x123 := by decide
theorem test_decode_seImm : decode 0b0011001100010010 = .seImm 3 0x12 := by decide
theorem test_decode_sneImm : decode 0b0100001100010010 = .sneImm 3 0x12 := by decide
theorem test_decode_seReg : decode 0b0101101010110111 = .seReg 0xA 0xB 0x7 := by decide
theorem test_decode_sneReg : decode 0b1001101010111111 = .sneReg 0xA 0xB 0xF := by decide
theorem test_decode_ldImm : decode 0b0110101001111011 = .ldImm 0xA 0x7B := by decide
theorem test_decode_addImm : decode 0b0111111111111111 = .addImm 0xF 0xFF := by decide
theorem test_decode_ldReg : decode 0b1000000100100000 = .ldReg 1 2 := by decide
theorem test_decode_orReg : decode 0b1000000100100001 = .orReg 1 2 := by decide
theorem test_decode_andReg : decode 0b1000000100100010 = .andReg 1 2 := by decide
theorem test_decode_xorReg : decode 0b1000000100100011 = .xorReg 1 2 := by decide
theorem test_decode_addReg : decode 0b1000000100100100 = .addReg 1 2 := by decide
theorem test_decode_sub : decode 0b1000000100100101 = .sub 1 2 := by decide
theorem test_decode_shr : decode 0b1000000100100110 = .shr 1 2 := by decide
theorem test_decode_subn : decode 0b1000000100100111 = .subn 1 2 := by decide
theorem test_decode_shl : decode 0b1000101010111110 = .shl 0xA 0xB := by decide
theorem test_decode_rnd : decode 0b1100001100001111 = .rnd 3 0x0F := by decide
theorem test_decode_ldI : decode 0b1010000100100011 = .ldI 0x123 := by decide
theorem test_decode_addIVx : decode 0b1111001000011110 = .addIVx 2 0x1 := by decide
theorem test_decode_ldFVx : decode 0b1111000100101001 = .ldFVx 1 0x2 := by decide
theorem test_decode_ldBVx : decode 0b1111000100110011 = .ldBVx 1 0x3 := by decide
theorem test_decode_ldMemVx : decode 0b1111000101010101 = .ldMemVx 1 := by decide
theorem test_decode_ldVxMem : decode 0b1111001001100101 = .ldVxMem 2 := by decide
theorem test_decode_cls : decode 0b0000000011100000 = .cls 0x0E ∧ decode 0x0AB0 = .cls 0xAB := by decide
theorem test_decode_drw : decode 0b1101001000110101 = .drw 2 3 5 := by decide
theorem test_decode_skp : decode 0b1110010110011110 = .skp 5 0x9 ∧ decode 0xE10E = .skp 1 0x0 := by decide
theorem test_decode_sknp : decode 0b1110010110100001 = .sknp 5 0xA ∧ decode 0xE111 = .sknp 1 0x1 := by decide
theorem test_decode_ldVxK : decode 0b1111010000001010 = .ldVxK 4 0x0 := by decide
theorem test_decode_ldVxDt : decode 0b1111000100000111 = .ldVxDt 1 0x0 ∧ decode 0xF1F7 = .ldVxDt 1 0xF := by decide
theorem test_decode_ldDtVx : decode 0b1111101000010101 = .ldDtVx 0xA := by decide
theorem test_decode_ldStVx : decode 0b1111000100011000 = .ldStVx 1 0x1 := by decide
theorem test_decode_invalid :
    decode 0x8ABA = .invalid 0x8ABA ∧ decode 0xE1A0 = .invalid 0xE1A0 ∧ decode 0xF331 = .invalid 0xF331 ∧
    decode 0xF125 = .invalid 0xF125 ∧ decode 0xFFFF = .invalid 0xFFFF := by decide
theorem test_decodeBytes_big_endian : decodeBytes [0x12, 0x34, 0x56] = some (.jp 0x234, [0x56]) := by decide

/-! ### Single steps -/

/-- The state after one step of the word at 0x200. -/
def after (w : Word) (s : State) : State :=
  match step (placeWord 0x200 w s) with
  | .next t => t
  | .fault _ => s
  | .refused _ => s

/-- The reset state with some registers set. -/
def regs (l : List (RegNum × Byte)) : State := l.foldl (fun s p => s.setReg p.1 p.2) State.reset

/-- The reset state with I and some registers set. -/
def regsI (i : Word) (l : List (RegNum × Byte)) : State := (regs l).setI i

/-- The reset state with a depth and every stack slot equal. -/
def depth (n : Fin 17) (p : Word) : State := { State.reset with sp := n, stack := .replicate 16 p }

/-- The reset state with two sprite rows at 0x300, I there, and V0, V1 set. -/
def sprite (x y r0 r1 : Byte) : State :=
  let s := regsI 0x300 [(0, x), (1, y)]
  { s with mem := (s.mem.write 0x300 r0).write 0x301 r1 }

/-- The reset state with one key line down and V5 set. -/
def keyed (k : RegNum) (v5 : Byte) : State := (regs [(5, v5)]).setKey k true

-- V-CF 1
theorem test_sys_does_nothing : (after 0x0123 State.reset).pc = 0x202 ∧ (after 0x0123 State.reset).tag = 0x0000 := by
  decide
-- V-CF 5, 6
theorem test_ret_pops : (after 0x00EE (depth 1 0x206)).pc = 0x206 ∧ (after 0x00EE (depth 1 0x206)).sp = 0 := by decide
theorem test_ret_empty_faults : (after 0x00EE State.reset).faultCause = .stackUnderflow ∧
    (after 0x00EE State.reset).pc = 0x200 ∧ (after 0x00EE State.reset).tag = 0x00EE := by decide
-- V-CF 2
theorem test_jp : (after 0x1234 State.reset).pc = 0x234 := by decide
-- V-CF 4 (at 0x200), 7
theorem test_call_pushes : (after 0x2210 State.reset).pc = 0x210 ∧ (after 0x2210 State.reset).stack[0] = 0x202 ∧
    (after 0x2210 State.reset).sp = 1 := by decide
theorem test_call_full_faults : (after 0x2300 (depth 16 0)).faultCause = .stackOverflow ∧
    (after 0x2300 (depth 16 0)).faultInfo = 0x0010 ∧ (after 0x2300 (depth 16 0)).sp = 16 := by decide
-- V-CF 10, 12
theorem test_jpV0_exact : (after 0xBF80 (regs [(0, 0x90)])).pc = 0x1010 := by decide
theorem test_jpV0_adds_v0 : (after 0xB500 (regs [(0, 0x01), (5, 0x80)])).pc = 0x501 := by decide
-- V-SKIP 1, 2
theorem test_seImm_taken : (after 0x3142 (regs [(1, 0x42)])).pc = 0x204 := by decide
theorem test_seImm_not_taken : (after 0x3143 (regs [(1, 0x42)])).pc = 0x202 := by decide
-- V-SKIP 3, 4
theorem test_sneImm_not_taken : (after 0x4142 (regs [(1, 0x42)])).pc = 0x202 := by decide
theorem test_sneImm_taken : (after 0x4143 (regs [(1, 0x42)])).pc = 0x204 := by decide
-- V-SKIP 6, 7
theorem test_seReg_taken : (after 0x5127 (regs [(1, 0x07), (2, 0x07)])).pc = 0x204 := by decide
theorem test_seReg_not_taken : (after 0x5120 (regs [(1, 0x07), (2, 0x08)])).pc = 0x202 := by decide
-- V-SKIP 8, 9
theorem test_sneReg_taken : (after 0x9120 (regs [(1, 0x07), (2, 0x08)])).pc = 0x204 := by decide
theorem test_sneReg_not_taken : (after 0x912F (regs [(1, 0x07), (2, 0x07)])).pc = 0x202 := by decide
-- V-ALU 2
theorem test_ldImm_vf : (after 0x6FAB (regs [(15, 0x01)])).v[15] = 0xAB := by decide
-- V-ALU 3
theorem test_addImm_no_carry_flag : (after 0x7AFF (regs [(10, 0x02), (15, 0x55)])).v[10] = 0x01 ∧
    (after 0x7AFF (regs [(10, 0x02), (15, 0x55)])).v[15] = 0x55 := by decide
-- V-ALU 5
theorem test_ldReg : (after 0x8120 (regs [(2, 0x9C), (15, 0x77)])).v[1] = 0x9C ∧
    (after 0x8120 (regs [(2, 0x9C), (15, 0x77)])).v[15] = 0x77 := by decide
-- V-ALU 6, 10
theorem test_orReg : (after 0x8121 (regs [(1, 0x0F), (2, 0xF0)])).v[1] = 0xFF := by decide
theorem test_orReg_vf : (after 0x8F11 (regs [(15, 0x01), (1, 0x10)])).v[15] = 0x11 := by decide
-- V-ALU 7
theorem test_andReg : (after 0x8122 (regs [(1, 0xFF), (2, 0x0F)])).v[1] = 0x0F := by decide
-- V-ALU 8
theorem test_xorReg : (after 0x8123 (regs [(1, 0xFF), (2, 0x0F)])).v[1] = 0xF0 := by decide
-- V-ALU 16, 18
theorem test_addReg_result_over_flag : (after 0x8F14 (regs [(15, 0xFF), (1, 0x01)])).v[15] = 0x00 := by decide
theorem test_addReg_reads_vf_first : (after 0x81F4 (regs [(1, 0x01), (15, 0xFF)])).v[1] = 0x00 ∧
    (after 0x81F4 (regs [(1, 0x01), (15, 0xFF)])).v[15] = 0x01 := by decide
-- E3a, V-ALU 19
theorem test_sub_borrow : (after 0x8125 (regs [(1, 0xF0), (2, 0xF2)])).v[1] = 0xFE ∧
    (after 0x8125 (regs [(1, 0xF0), (2, 0xF2)])).v[15] = 0x00 := by decide
theorem test_sub_equal : (after 0x8125 (regs [(1, 0x05), (2, 0x05)])).v[15] = 0x01 := by decide
-- V-ALU 33, 34
theorem test_shr_ignores_vy : (after 0x8126 (regs [(1, 0x04), (2, 0xFF)])).v[1] = 0x02 ∧
    (after 0x8126 (regs [(1, 0x04), (2, 0xFF)])).v[15] = 0x00 := by decide
theorem test_shr_result_over_flag : (after 0x8F06 (regs [(15, 0x03)])).v[15] = 0x01 := by decide
-- V-ALU 28, 29
theorem test_subn_no_borrow : (after 0x8127 (regs [(1, 0x07), (2, 0xF2)])).v[1] = 0xEB ∧
    (after 0x8127 (regs [(1, 0x07), (2, 0xF2)])).v[15] = 0x01 := by decide
theorem test_subn_borrow : (after 0x8127 (regs [(1, 0xF2), (2, 0xF0)])).v[1] = 0xFE ∧
    (after 0x8127 (regs [(1, 0xF2), (2, 0xF0)])).v[15] = 0x00 := by decide
-- V-ALU 36, 38
theorem test_shl : (after 0x810E (regs [(1, 0xFF)])).v[1] = 0xFE ∧ (after 0x810E (regs [(1, 0xFF)])).v[15] = 0x01 := by
  decide
theorem test_shl_result_over_flag : (after 0x8F0E (regs [(15, 0x81)])).v[15] = 0x02 := by decide
-- V-ALU 41, and the draw is taken from the RAND input
theorem test_rnd_mask_zero : (after 0xC100 State.reset).v[1] = 0x00 := by
  show Config.randByte 0 &&& 0x00 = 0x00
  exact BitVec.and_zero
theorem test_rnd_takes_a_fresh_byte : (after 0xC1FF State.reset).draws = 1 := by decide
-- V-IDX 2
theorem test_ldI : (after 0xAFFF State.reset).i = 0x0FFF := by decide
-- V-IDX 4, 5
theorem test_addIVx_past_memory : (after 0xF11E (regsI 0x0FFF [(1, 0x01)])).i = 0x1000 := by decide
theorem test_addIVx_wraps : (after 0xF11E (regsI 0xFFFF [(1, 0x02)])).i = 0x0001 := by decide
-- V-IDX 8, 9
theorem test_ldFVx : (after 0xF129 (regs [(1, 0x0F)])).i = 0x04B := by decide
theorem test_ldFVx_faults : (after 0xF129 (regsI 0x300 [(1, 0x10)])).faultCause = .glyphOutOfRange ∧
    (after 0xF129 (regsI 0x300 [(1, 0x10)])).faultInfo = 0x0010 ∧ (after 0xF129 (regsI 0x300 [(1, 0x10)])).i = 0x300 := by
  decide
-- V-IDX 15, 16
theorem test_ldBVx : (after 0xF133 (regsI 0xFFD [(1, 0x7B)])).readByte 0xFFD = 1 ∧
    (after 0xF133 (regsI 0xFFD [(1, 0x7B)])).readByte 0xFFE = 2 ∧
    (after 0xF133 (regsI 0xFFD [(1, 0x7B)])).readByte 0xFFF = 3 := by decide
theorem test_ldBVx_faults : (after 0xF133 (regsI 0xFFE [(1, 0x7B)])).faultInfo = 0x1000 ∧
    (after 0xF133 (regsI 0xFFE [(1, 0x7B)])).readByte 0xFFE = 0 := by decide
-- V-IDX 21, 19
theorem test_ldMemVx : (after 0xF155 (regsI 0x300 [(0, 0x11), (1, 0x22), (2, 0x33)])).readByte 0x301 = 0x22 ∧
    (after 0xF155 (regsI 0x300 [(0, 0x11), (1, 0x22), (2, 0x33)])).readByte 0x302 = 0 := by decide
theorem test_ldMemVx_faults : (after 0xF155 (regsI 0xFFF [(0, 0xAA), (1, 0xBB)])).faultCause = .memOutOfRange ∧
    (after 0xF155 (regsI 0xFFF [(0, 0xAA), (1, 0xBB)])).readByte 0xFFF = 0 := by decide
-- V-IDX 23, 24
theorem test_ldVxMem : (after 0xF065 (sprite 0 0x99 0x01 0)).v[0] = 0x01 ∧
    (after 0xF065 (sprite 0 0x99 0x01 0)).v[1] = 0x99 := by decide
theorem test_ldVxMem_faults : (after 0xF265 (regsI 0xFFE [(0, 0x12)])).faultInfo = 0x1000 ∧
    (after 0xF265 (regsI 0xFFE [(0, 0x12)])).v[0] = 0x12 := by decide
-- V-DRW 1
theorem test_cls : Framebuffer.cell (after 0x0AB0 { State.reset with fb := .replicate 32 (.replicate 64 true) }).fb 2047 =
    false := by decide
-- V-DRW 7 (a sprite spills into the next row), 9
theorem test_drw_spills : Framebuffer.cell (after 0xD011 (sprite 62 0 0xFF 0)).fb 69 = true ∧
    Framebuffer.cell (after 0xD011 (sprite 62 0 0xFF 0)).fb 70 = false := by decide
theorem test_drw_faults : (after 0xD012 (sprite 0 31 0xFF 0xFF)).faultCause = .fbOutOfRange ∧
    (after 0xD012 (sprite 0 31 0xFF 0xFF)).faultInfo = 0x0800 := by decide
-- V-KEY 1, 5
theorem test_skp : (after 0xE59E (keyed 7 0x07)).pc = 0x204 := by decide
theorem test_skp_faults : (after 0xE59E (keyed 7 0x10)).faultCause = .keyOutOfRange ∧
    (after 0xE59E (keyed 7 0x10)).faultInfo = 0x0010 := by decide
-- V-KEY 3, 4
theorem test_sknp_taken : (after 0xE5A1 (keyed 8 0x07)).pc = 0x204 := by decide
theorem test_sknp_not_taken : (after 0xE5A1 (keyed 7 0x07)).pc = 0x202 := by decide
-- V-KEY 7, 9
theorem test_ldVxK_lowest : (after 0xF40A ((keyed 9 0).setKey 3 true)).v[4] = 0x03 ∧
    (after 0xF40A ((keyed 9 0).setKey 3 true)).status = .run := by decide
theorem test_ldVxK_holds : (after 0xF40A State.reset).status = .waitKey ∧ (after 0xF40A State.reset).waitX = 4 ∧
    (after 0xF40A State.reset).pc = 0x202 := by decide
-- V-TMR 1, 2, 7
theorem test_ldVxDt : (after 0xFC07 { State.reset with dt := 0x0D }).v[12] = 0x0D := by decide
theorem test_ldDtVx : (after 0xFA15 (regs [(10, 0x10)])).dt = 0x10 ∧ (after 0xFA15 (regs [(10, 0x10)])).dtIdle = false := by
  decide
theorem test_ldStVx : (after 0xF118 (regs [(1, 0x05)])).st = 0x05 ∧ sound (after 0xF118 (regs [(1, 0x05)])) = true := by
  decide
-- V-FLT 3
theorem test_invalid : (after 0x8AB8 State.reset).faultCause = .invalidOpcode ∧
    (after 0x8AB8 State.reset).faultWord = 0x8AB8 ∧ (after 0x8AB8 State.reset).tag = 0xFFFF := by decide
-- V-FLT 1
theorem test_fetch_fault : step (State.reset.setPc 0xFFF) =
    .next (takeFault ⟨.fetchOutOfRange, 0x0FFF⟩ 0x0FFF 0x0000 (State.reset.setPc 0xFFF)) := rfl

/-! ### Ports and reset -/

-- V-RST 2
theorem test_reset_runs_cls : ∃ t, step State.reset = .next t ∧ t.pc = 0x202 ∧ t.tag = 0x00E0 := ⟨_, rfl, by decide⟩
theorem test_reset_inv : State.reset.Inv := by decide
-- V-KEY 10
theorem test_key_set_completes_wait : (keyPort 0xC true (after 0xF40A State.reset)).v[4] = 0x0C ∧
    (keyPort 0xC true (after 0xF40A State.reset)).status = .run := by decide
-- V-TMR 10, 5
theorem test_tick : (tick { State.reset with dt := 0x01, st := 0x05 }).st = 0x04 ∧ (tick State.reset).dt = 0 := by decide
-- V-FLT 8, 9
theorem test_load_out_of_range : reply (.load 0x1000 0x12) State.reset = .loadError ∧
    loadPort 0x1000 0x12 State.reset = State.reset := by decide
theorem test_load_over_the_font : (loadPort 0x000 0x00 State.reset).readByte 0 = 0 ∧
    State.reset.readByte 0 = 0xF0 := by decide

/-! ### Assembler: lines of the programs of 95_test_vectors.md, and 30_encoding.md R101 -/

theorem test_assemble_words : assemble [.ldImm 0xA 0x7B, .ldBVx 0xA, .ret, .drw 2 3 2, .ldVxMem 2, .db [0x8A, 0xB8]] =
    some [0x6A, 0x7B, 0xFA, 0x33, 0x00, 0xEE, 0xD2, 0x32, 0xF2, 0x65, 0x8A, 0xB8] := by decide
theorem test_assemble_patterns : assemble [.cls, .skp 5, .sknp 5, .ldFVx 0, .addIVx 2, .ldStVx 1, .shr 4 none] =
    some [0x00, 0xE0, 0xE5, 0x9E, 0xE5, 0xA1, 0xF0, 0x29, 0xF2, 0x1E, 0xF1, 0x18, 0x84, 0x06] := by decide
theorem test_assemble_rejects_sys : assemble [.sys 0x0E0] = none ∧ assemble [.sys 0x123] = some [0x01, 0x23] := by decide
theorem test_line_text : lineText (.ldMemVx 1) = "LD [I], V1" ∧ lineText (.addImm 1 0x03) = "ADD V1, 0x03" ∧
    lineText (.jp 0x204) = "JP 0x204" ∧ lineText (.drw 2 3 2) = "DRW V2, V3, 2" ∧
    lineText (.db [0x8A, 0xB8]) = "DB 0x8A, 0xB8" := by decide

/-! ### Witnesses: for each statement with hypotheses, states and operands that meet them all, each clause at a boundary -/

/-- The reset state in another status. -/
def inStatus (st : Status) : State := { State.reset with status := st }

/-- The reset state with another FAULT_CAUSE. -/
def withCause (c : FaultCause) : State := { State.reset with faultCause := c }

theorem witness_DecodeOfEncodeIsIdentity : (Instr.sys 0xFFF).wf = true ∧ (Instr.sys 0x001).wf = true ∧
    (Instr.invalid 0xFFFF).wf = true ∧ (Instr.invalid 0x8008).wf = true ∧ (Instr.drw 15 15 15).wf = true := by decide
theorem witness_InvalidWordsClassified : (decode 0x8008).op = .INVALID ∧ (decode 0xE000).op = .INVALID ∧
    (decode 0xFFFF).op = .INVALID ∧ (decode 0xFF75).op = .INVALID := by decide
theorem witness_FetchIsBigEndian : (State.reset.setPc 0xFFE).pc.toNat ≤ 0xFFE := by decide
theorem witness_StepFetchesDecodesExecutes :
    (State.reset.setPc 0xFFE).status = .run ∧ (State.reset.setPc 0xFFE).pc.toNat ≤ 0xFFE ∧
    decode (beWord ((State.reset.setPc 0xFFE).readByte 0xFFE) ((State.reset.setPc 0xFFE).readByte 0xFFF)) = .cls 0 ∧
    (State.reset.setPc 0xFFF).status = .run ∧ 0xFFE < (State.reset.setPc 0xFFF).pc.toNat := by decide
theorem witness_StepPortByStatus :
    (inStatus .run).status = .run ∧ (inStatus .faulted).status = .faulted ∧
    (((inStatus .waitKey).setKey 15 true).status = .waitKey ∧ ((inStatus .waitKey).setKey 15 true).key[(15 : RegNum)] = true ∧
      ∀ j : RegNum, j < 15 → ((inStatus .waitKey).setKey 15 true).key[j] = false) ∧
    ((inStatus .waitKey).status = .waitKey ∧ ∀ k : RegNum, (inStatus .waitKey).key[k] = false) := by decide
theorem witness_StepsAnswerAndOnlyKeyWaitHolds : ∃ t, State.reset.status = .run ∧
    exec (.ldVxK 4 0) State.reset = .next t ∧ t.status = .waitKey := ⟨_, rfl, rfl, rfl⟩
theorem witness_OtherInstructionsAdvancePcByTwo : ∃ t, State.reset.status = .run ∧
    exec (.cls 0) State.reset = .next t ∧ t.status ≠ .faulted ∧
    (Instr.cls 0).op ∉ [.RET, .JP, .CALL, .JP_V0, .SE_IMM, .SNE_IMM, .SE_REG, .SNE_REG, .SKP, .SKNP] :=
  ⟨_, rfl, rfl, by decide, by decide⟩
theorem witness_TagNamesTheOperation : ∃ t t', exec (.orReg 0 1) State.reset = .next t ∧
    exec (.ret 0xEE) State.reset = .next t' := ⟨_, _, rfl, rfl⟩
theorem witness_PcNeverWraps : ∃ t, (depth 1 0x1000).pc.toNat ≤ 0x10FE ∧
    (∀ j : Fin 16, (depth 1 0x1000).stack[j].toNat ≤ 0x1000) ∧ step (depth 1 0x1000) = .next t :=
  ⟨_, by decide, by decide, rfl⟩
theorem witness_PcNeverWraps_at_the_top : ∃ t, (State.reset.setPc 0x10FE).pc.toNat ≤ 0x10FE ∧
    (∀ j : Fin 16, (State.reset.setPc 0x10FE).stack[j].toNat ≤ 0x1000) ∧ step (State.reset.setPc 0x10FE) = .next t :=
  ⟨_, by decide, by decide, rfl⟩
theorem witness_FaultsArePrecise : ∃ t, State.reset.status = .run ∧ exec (.ret 0x0E) State.reset = .next t ∧
    t.status = .faulted := ⟨_, rfl, rfl, rfl⟩

/-- The reset state with I at the last byte of memory and V0, V1 set. -/
def spriteAtEnd (x y : Byte) : State := regsI 0xFFF [(0, x), (1, y)]

/-- The hypotheses of `Obligations.FaultCausesByOperation` with a given cause. -/
def faultsWith (i : Instr) (s : State) (c : FaultCause) : Prop :=
  ∃ t, s.status = .run ∧ exec i s = .next t ∧ t.status = .faulted ∧ t.faultCause = c

theorem witness_FaultCauses_invalid : faultsWith (.invalid 0xFFFF) State.reset .invalidOpcode := ⟨_, rfl, rfl, rfl, rfl⟩
theorem witness_FaultCauses_underflow : faultsWith (.ret 0) State.reset .stackUnderflow := ⟨_, rfl, rfl, rfl, rfl⟩
theorem witness_FaultCauses_overflow : faultsWith (.call 0) (depth 16 0) .stackOverflow := ⟨_, rfl, rfl, rfl, rfl⟩
theorem witness_FaultCauses_memory : faultsWith (.ldMemVx 1) (regsI 0xFFF []) .memOutOfRange := ⟨_, rfl, rfl, rfl, rfl⟩
theorem witness_FaultCauses_memory_first : faultsWith (.drw 0 1 2) (spriteAtEnd 0 31) .memOutOfRange :=
  ⟨_, rfl, rfl, rfl, rfl⟩
theorem witness_FaultCauses_memory_others : faultsWith (.ldBVx 0 0) (regsI 0xFFE []) .memOutOfRange ∧
    faultsWith (.ldVxMem 15) (regsI 0xFF1 []) .memOutOfRange := ⟨⟨_, rfl, rfl, rfl, rfl⟩, ⟨_, rfl, rfl, rfl, rfl⟩⟩
theorem witness_FaultCauses_framebuffer : faultsWith (.drw 0 1 2) (sprite 0 31 0 0) .fbOutOfRange :=
  ⟨_, rfl, rfl, rfl, rfl⟩
theorem witness_FaultCauses_key : faultsWith (.skp 5 0) (keyed 0 0x10) .keyOutOfRange := ⟨_, rfl, rfl, rfl, rfl⟩
theorem witness_FaultCauses_key_up : faultsWith (.sknp 5 0) (keyed 0 0x10) .keyOutOfRange := ⟨_, rfl, rfl, rfl, rfl⟩
theorem witness_FaultCauses_glyph : faultsWith (.ldFVx 0 0) (regs [(0, 0x10)]) .glyphOutOfRange := ⟨_, rfl, rfl, rfl, rfl⟩

theorem witness_RegistersWrittenOnlyAsNamed : ∃ t, exec (.ldImm 15 0x01) State.reset = .next t ∧
    t.v[(15 : RegNum)] ≠ State.reset.v[(15 : RegNum)] := ⟨_, rfl, by decide⟩
theorem witness_StateElements_index : ∃ t, exec (.ldI 0xFFF) State.reset = .next t ∧ t.i ≠ State.reset.i :=
  ⟨_, rfl, by decide⟩
theorem witness_StateElements_stack : ∃ t, exec (.call 0x300) State.reset = .next t ∧ t.sp ≠ State.reset.sp ∧
    t.stack ≠ State.reset.stack := ⟨_, rfl, by decide, by decide⟩
theorem witness_StateElements_delay : ∃ t, exec (.ldDtVx 0) (regs [(0, 1)]) = .next t ∧ t.dt ≠ (regs [(0, 1)]).dt :=
  ⟨_, rfl, by decide⟩
theorem witness_StateElements_sound : ∃ t, exec (.ldStVx 0 0) State.reset = .next t ∧ t.stIdle ≠ State.reset.stIdle :=
  ⟨_, rfl, by decide⟩
theorem witness_StateElements_framebuffer : ∃ t, exec (.drw 2 2 1) (sprite 0 0 0x80 0) = .next t ∧
    t.fb ≠ (sprite 0 0 0x80 0).fb :=
  ⟨_, rfl, fun h => absurd (congrArg (fun f => Framebuffer.cell f 0) h) (by decide)⟩
theorem witness_StateElements_memory : ∃ t, exec (.ldMemVx 0) (regsI 0xFFF [(0, 1)]) = .next t ∧
    t.mem ≠ (regsI 0xFFF [(0, 1)]).mem ∧ t.readByte 0xFFF ≠ (regsI 0xFFF [(0, 1)]).readByte 0xFFF :=
  ⟨_, rfl, by decide, by decide⟩
theorem witness_StateElements_hold : ∃ t, exec (.ldVxK 15 0) State.reset = .next t ∧ t.waitX ≠ State.reset.waitX :=
  ⟨_, rfl, by decide⟩
theorem witness_StateElements_draws : ∃ t, exec (.rnd 0 0xFF) State.reset = .next t ∧ t.draws ≠ State.reset.draws :=
  ⟨_, rfl, by decide⟩
theorem witness_StateElements_status : ∃ t u, exec (.ldVxK 15 0) State.reset = .next t ∧ t.status ≠ State.reset.status ∧
    exec (.ret 0) State.reset = .next u ∧ u.status ≠ State.reset.status :=
  ⟨_, _, rfl, by decide, rfl, by decide⟩
theorem witness_StateElements_faultRegisters : ∃ t, exec (.cls 0) State.reset = .next t ∧ t.status ≠ .faulted :=
  ⟨_, rfl, by decide⟩
theorem witness_HostStateIsUnobserved : (Instr.cls 0).op ∉ [.SKP, .SKNP, .LD_VX_K] := by decide
theorem witness_StaleSlotsAreUnobservable :
    ∀ j : Fin 16, j.val < (depth 1 0x300).sp.val → ((depth 1 0x300).stack.set 1 0xFFF)[j] = (depth 1 0x300).stack[j] := by
  decide

theorem witness_SysHasNoEffect : (0x001 : Imm12).toNat % 16 ≠ 0x0 ∧ (0x001 : Imm12).toNat % 16 ≠ 0xE ∧
    (0xFFF : Imm12).toNat % 16 ≠ 0x0 ∧ (0xFFF : Imm12).toNat % 16 ≠ 0xE := by decide
theorem witness_RetPopsOrUnderflows : 0 < (depth 1 0).sp.val ∧ 0 < (depth 16 0).sp.val ∧ (depth 0 0).sp.val = 0 ∧
    (∀ j : Fin 16, (depth 1 0x1000).stack[j].toNat ≤ 0x1000) := by decide
theorem witness_Ret_bad_target : ∃ t, (depth 16 0xFFF).status = .run ∧ exec (.ret 0) (depth 16 0xFFF) = .next t ∧
    0xFFE < t.pc.toNat := ⟨_, rfl, rfl, by decide⟩
theorem witness_JpSetsPc : State.reset.status = .run ∧ (0xFFF : Imm12) = 0xFFF ∧
    State.reset.pc.toNat = (0x200 : Imm12).toNat := by decide
theorem witness_CallPushesOrOverflows : (depth 0 0).sp.val < 16 ∧ (depth 15 0).sp.val < 16 ∧ (depth 16 0).sp.val = 16 := by
  decide
theorem witness_CallThenRetReturns : ∃ t, (depth 15 0).sp.val < 16 ∧ exec (.call 0xFFF) (depth 15 0) = .next t :=
  ⟨_, by decide, rfl⟩
/-- For ADD, SUB, SUBN, SHR and SHL on registers: a destination other than VF. -/
theorem witness_flag_destination : (0 : RegNum) ≠ vf ∧ (14 : RegNum) ≠ vf := by decide
theorem witness_LdISetsI : ∃ t, exec (.addIVx 0 1) (regsI 0xFFF [(0, 1)]) = .next t ∧
    (regsI 0xFFF [(0, 1)]).i.toNat ≤ 0xFFF ∧ 0xFFF < t.i.toNat := ⟨_, rfl, by decide, by decide⟩
theorem witness_LdFPointsAtGlyph : ((regs [(0, 0xF)]).v[(0 : RegNum)]).toNat ≤ 0xF ∧
    0xF < ((regs [(0, 0x10)]).v[(0 : RegNum)]).toNat := by decide
theorem witness_LdBStoresDecimalDigits : dataBase (regsI 0xFFD []) + 2 ≤ 0xFFF ∧ 0xFFF < dataBase (regsI 0xFFE []) + 2 := by
  decide
/-- For LD [I], Vx and LD Vx, [I], at the last address that fits and the first that does not. -/
theorem witness_bulk_transfers :
    dataBase (regsI 0xFF0 []) + (15 : RegNum).val ≤ 0xFFF ∧ 0xFFF < dataBase (regsI 0xFF1 []) + (15 : RegNum).val ∧
    dataBase (regsI 0xFFF []) + (0 : RegNum).val ≤ 0xFFF ∧ 0xFFF < dataBase (regsI 0x1000 []) + (0 : RegNum).val := by
  decide
theorem witness_DumpThenLoadRestores : ∃ t, (regsI 0xFFE [(0, 1)]).status = .run ∧
    exec (.ldMemVx 1) (regsI 0xFFE [(0, 1)]) = .next t ∧ t.status = .run := ⟨_, rfl, rfl, rfl⟩
theorem witness_StoredWordIsExecutedNext : ∃ t, (regsI 0x202 [(0, 0x12)]).status = .run ∧ 1 ≤ (1 : RegNum).val ∧
    (regsI 0x202 [(0, 0x12)]).i = (regsI 0x202 [(0, 0x12)]).pc + 2 ∧
    exec (.ldMemVx 1) (regsI 0x202 [(0, 0x12)]) = .next t ∧ t.status = .run := ⟨_, rfl, by decide, by decide, rfl, rfl⟩

theorem witness_DrwXorsTheSprite : (0 : Fin 16).val = 0 ∧
    (dataBase (spriteAtEnd 56 31) + (1 : Fin 16).val ≤ 0x1000 ∧
      drawBase (spriteAtEnd 56 31) 0 1 + 64 * ((1 : Fin 16).val - 1) + 7 ≤ 2047) := by decide
theorem witness_DrwChecksMemoryThenCells : (1 : Fin 16).val ≠ 0 ∧ (2 : Fin 16).val ≠ 0 ∧
    0x1000 < dataBase (spriteAtEnd 0 0) + (2 : Fin 16).val ∧
    (dataBase (spriteAtEnd 57 31) + (1 : Fin 16).val ≤ 0x1000 ∧
      2047 < drawBase (spriteAtEnd 57 31) 0 1 + 64 * ((1 : Fin 16).val - 1) + 7) := by decide
theorem witness_DrwCollisionIsAPixelTurnedOff : ∃ t, (spriteAtEnd 56 31).status = .run ∧
    exec (.drw 0 1 1) (spriteAtEnd 56 31) = .next t ∧ t.status = .run := ⟨_, rfl, rfl, rfl⟩
theorem witness_DrawingTwiceRestores : ∃ t, (0 : RegNum) ≠ vf ∧ (1 : RegNum) ≠ vf ∧ (sprite 56 31 0xFF 0).status = .run ∧
    exec (.drw 0 1 1) (sprite 56 31 0xFF 0) = .next t ∧ t.status = .run ∧
    drawBase t 0 1 = drawBase (sprite 56 31 0xFF 0) 0 1 ∧
    ∀ r c, r < (1 : Fin 16).val → c < 8 → Framebuffer.cell (sprite 56 31 0xFF 0).fb
      (drawBase (sprite 56 31 0xFF 0) 0 1 + 64 * r + c) = false :=
  ⟨_, by decide, by decide, rfl, rfl, rfl, rfl, fun _ _ _ _ => by
    simp [sprite, regsI, regs, State.reset, State.resetWith, Framebuffer.cell, State.setI, State.setReg]⟩
/-- The column in VF, which the first draw sets to the 0 it held. -/
theorem witness_DrawingTwice_at_vf : ∃ t, (sprite 56 31 0xFF 0).status = .run ∧
    exec (.drw 15 1 1) (sprite 56 31 0xFF 0) = .next t ∧ t.status = .run ∧
    drawBase t 15 1 = drawBase (sprite 56 31 0xFF 0) 15 1 := ⟨_, rfl, rfl, rfl, by decide⟩
theorem witness_KeySkips : ((keyed 15 0x0F).v[(5 : RegNum)]).toNat ≤ 0xF ∧
    0xF < ((keyed 15 0x10).v[(5 : RegNum)]).toNat := by decide
theorem witness_LdKeyCompletesOrHolds : ((keyed 15 0).key[(15 : RegNum)] = true ∧
      ∀ j : RegNum, j < 15 → (keyed 15 0).key[j] = false) ∧ ∀ k : RegNum, State.reset.key[k] = false := by decide
theorem witness_KeyActionsCompleteTheWait :
    ((PortAction.keySet 15 = .keySet 15 ∧ true = true) ∧ (PortAction.keyClear 15 = .keyClear 15 ∧ false = false) ∧
      (PortAction.keyToggle 15 = .keyToggle 15 ∧ true = !(inStatus .waitKey).key[(15 : RegNum)])) ∧
    State.reset.status ≠ .waitKey ∧ (inStatus .waitKey).status = .waitKey ∧
    (∀ j : RegNum, ((inStatus .waitKey).key.set (15 : RegNum) false)[j] = false) ∧
    (((inStatus .waitKey).key.set (15 : RegNum) true)[(15 : RegNum)] = true ∧
      ∀ l : RegNum, l < 15 → ((inStatus .waitKey).key.set (15 : RegNum) true)[l] = false) := by decide
theorem witness_LdDtReadsTheCount : State.reset.Inv ∧ State.reset.dtIdle = true := by decide
theorem witness_LoadAndResume : 0xFFF ≤ 0xFFF ∧ 0xFFF < 0x1000 ∧ (inStatus .faulted).status = .faulted ∧
    (inStatus .run).status ≠ .faulted ∧ (inStatus .waitKey).status ≠ .faulted := by decide
theorem witness_ReadPortsHaveNoEffect : State.reset.tagHeld = false ∧ (State.reset.setTag 0x1000).tagHeld = true ∧
    (∀ st, (inStatus st).status = st) ∧ (∀ c, (withCause c).faultCause = c) :=
  ⟨rfl, rfl, fun _ => rfl, fun _ => rfl⟩
theorem witness_ResetMemoryHoldsTheFont : 79 < 80 ∧ 80 ≤ 80 ∧ 80 ≤ 0xFFF ∧ 0xFFF ≤ 0xFFF := by decide
theorem witness_StepKeepsTheInvariant : ∃ t, State.reset.Inv ∧ step State.reset = .next t := ⟨_, by decide, rfl⟩
theorem witness_AllInterleavingsKeepTheInvariant : ∃ t, State.reset.Inv ∧
    runActions [.load 0x200 0xF0, .load 0x201 0x0A, .step, .tick, .keySet 3] State.reset = .next t ∧ t.status = .run :=
  ⟨_, by decide, rfl, by decide⟩
theorem witness_GoodEndIsStable : (placeWord 0x200 0x1200 State.reset).endsWell = true := by decide

end Sys2Proof.Tests
end

section
/-!
SUPPORT. The reset memory (10_state.md R35): the two cases of what an unlisted address reads as, that a memory without
cells reads so everywhere, and from these the statement on the memory after reset.
-/

namespace Sys2Proof.Machine

/-- An address of the font region reads as FONT unless a cell lists it (20_memory.md R58). -/
theorem Memory.unlisted_of_lt (m : Memory) {a : Nat} (h : a < 80) : m.unlisted a = m.font[a] := dif_pos h

/-- An address above the font region reads as 0x00 unless a cell lists it (10_state.md R35). -/
theorem Memory.unlisted_of_le (m : Memory) {a : Nat} (h : 80 ≤ a) : m.unlisted a = 0x00 := dif_neg (Nat.not_lt.mpr h)

@[simp] theorem Memory.read_of_no_cells (font : Config.Font) (a : Nat) :
    Memory.read ⟨font, []⟩ a = Memory.unlisted ⟨font, []⟩ a := rfl

/-- Reset lists no cell, so every address reads as its reset contents. -/
theorem readByte_resetWith (font : Config.Font) (a : Nat) :
    (State.resetWith font).readByte a = Memory.unlisted ⟨font, []⟩ a :=
  Memory.read_of_no_cells font a

/-- Settles O55: an address below 80 reads as the font's byte, one from 80 on as 0x00, since reset lists no cell. -/
theorem resetMemoryHoldsTheFont : Obligations.ResetMemoryHoldsTheFont := by
  intro font a
  rw [readByte_resetWith]
  constructor
  · intro h
    exact Memory.unlisted_of_lt _ h
  · intro h _
    exact Memory.unlisted_of_le _ h

end Sys2Proof.Machine
end

section
/-!
SUPPORT. The two halves of a word as bytes (20_memory.md R54), and from these the statement on the byte order of a fetch.
-/

namespace Sys2Proof.Machine

/-- The byte at the lower address is bits 15:8 of the word read (20_memory.md R54). -/
@[simp] theorem hiByte_readWord (m : Memory) (a : Nat) : hiByte (m.readWord a) = m.read a := hiByte_beWord _ _

/-- The byte at the higher address is bits 7:0 of the word read (20_memory.md R54). -/
@[simp] theorem loByte_readWord (m : Memory) (a : Nat) : loByte (m.readWord a) = m.read (a + 1) := loByte_beWord _ _

/-- Settles O5: the word fetched is the word read at PC, whose high byte is the byte at PC and whose low byte is the
byte after it. -/
theorem fetchIsBigEndian : Obligations.FetchIsBigEndian := by
  intro s h
  exact ⟨s.mem.readWord s.pc.toNat, fetch_some h, hiByte_readWord _ _, loByte_readWord _ _⟩

end Sys2Proof.Machine
end

section
/-!
SUPPORT. The absolute jump (40_control_flow.md R112): its word, the value of its target and the state it answers, and the
step from a PC at which no word can be fetched; from these the statement on JP.
-/

namespace Sys2Proof.Machine

/-- NNN loses nothing when it is widened to an address (30_encoding.md R79). -/
@[simp] theorem toNat_addrOf (nnn : Imm12) : (addrOf nnn).toNat = nnn.toNat :=
  BitVec.toNat_setWidth_of_le (by decide)

/-- The high nibble 1 alone selects JP (30_encoding.md R82). -/
theorem decode_wordNNN_jp (nnn : Imm12) : decode (wordNNN 0x1 nnn) = .jp nnn := by
  simp [decode]

/-- JP cannot fault, and its target overwrites the fetch's advance of PC (40_control_flow.md R112). -/
theorem exec_jp (nnn : Imm12) (s : State) :
    exec (.jp nnn) s = .next ((s.setPc (addrOf nnn)).setTag (opTag .JP)) :=
  perform_ok (ins := .jp nnn) (body := fun t => .ok (t.setPc (addrOf nnn))) rfl

/-- A new PC and a new TAG change nothing outside PC and TAG. -/
theorem onlyPc_setPc_setTag (s : State) (p t : Word) : OnlyPc s ((s.setPc p).setTag t) := rfl

/-- A step in status RUN from a PC above 0xFFE takes the fetch fault (60_exceptions.md R226). -/
theorem step_faults_above_last_word {s : State} (hs : s.status = .run) (hpc : 0xFFE < s.pc.toNat) :
    ∃ u, step s = .next u ∧ u.faultCause = .fetchOutOfRange :=
  ⟨takeFetchFault s, step_unfetched hs (fetch_none hpc), takeFetchFault_faultCause s⟩

/-- Settles O21: JP answers the state with PC and TAG written, so the frame is by definition; the target 0xFFF is above
the last address of a word, and a jump to its own address writes the PC that was there. -/
theorem jpSetsPc : Obligations.JpSetsPc := by
  refine ⟨decode_wordNNN_jp, fun nnn s => ⟨_, exec_jp nnn s, ?target, onlyPc_setPc_setTag s _ _, ?fetch, ?self⟩⟩
  case target =>
    exact toNat_addrOf nnn
  case fetch =>
    rintro hs rfl
    exact step_faults_above_last_word hs (by simp)
  case self =>
    intro h
    exact BitVec.eq_of_toNat_eq ((toNat_addrOf nnn).trans h.symm)

end Sys2Proof.Machine
end

section
/-!
SUPPORT. The conditional skips (41_conditional_skip.md R130 to R134): what a skip leaves after the fetch's advance, the
words and the answered states of SE and SNE, and from these the statements on the skips.
-/

namespace Sys2Proof.Machine

/-! ### A skip after the fetch's advance -/

/-- Two words past the instruction when the skip is taken, one when it is not (41_conditional_skip.md R130). -/
theorem pc_advance_skipIf (s : State) (c : Bool) :
    (s.advance.skipIf c).pc = if c then s.pc + 4 else s.pc + 2 := by
  have two_words : s.pc + 2 + 2 = s.pc + 4 := BitVec.add_assoc s.pc 2 2
  rw [skipIf_pc, advance_pc, two_words]

/-- A skip and the new TAG change nothing outside PC and TAG, whichever way the skip goes. -/
theorem onlyPc_advance_skipIf_setTag (s : State) (c : Bool) (t : Word) :
    OnlyPc s ((s.advance.skipIf c).setTag t) := by
  cases c <;> rfl

/-- A state answered by a skip on equality: PC by R131 and R133, and the frame. -/
theorem skip_on_eq {o : Outcome} {s : State} {a b : Byte} {tag : Word}
    (h : o = .next ((s.advance.skipIf (a == b)).setTag tag)) :
    ∃ t, o = .next t ∧ t.pc = (if a = b then s.pc + 4 else s.pc + 2) ∧ OnlyPc s t := by
  refine ⟨_, h, ?pc, onlyPc_advance_skipIf_setTag s _ tag⟩
  case pc => simp only [setTag_pc, pc_advance_skipIf, beq_iff_eq]

/-- A state answered by a skip on difference: PC by R132 and R134, and the frame. -/
theorem skip_on_ne {o : Outcome} {s : State} {a b : Byte} {tag : Word}
    (h : o = .next ((s.advance.skipIf (a != b)).setTag tag)) :
    ∃ t, o = .next t ∧ t.pc = (if a = b then s.pc + 2 else s.pc + 4) ∧ OnlyPc s t := by
  refine ⟨_, h, ?pc, onlyPc_advance_skipIf_setTag s _ tag⟩
  case pc => simp only [setTag_pc, pc_advance_skipIf, bne_iff_ne, ne_eq, ite_not]

/-! ### SE and SNE with an immediate -/

/-- The high nibble 3 alone selects SE with an immediate (30_encoding.md R82). -/
theorem decode_wordXKK_seImm (x : RegNum) (kk : Byte) : decode (wordXKK 0x3 x kk) = .seImm x kk := by
  simp [decode]

/-- The high nibble 4 alone selects SNE with an immediate (30_encoding.md R82). -/
theorem decode_wordXKK_sneImm (x : RegNum) (kk : Byte) : decode (wordXKK 0x4 x kk) = .sneImm x kk := by
  simp [decode]

/-- SE compares VX with KK and cannot fault (41_conditional_skip.md R131). -/
theorem exec_seImm (x : RegNum) (kk : Byte) (s : State) :
    exec (.seImm x kk) s = .next ((s.advance.skipIf (s.v[x] == kk)).setTag (opTag .SE_IMM)) :=
  perform_ok (ins := .seImm x kk) (body := fun t => .ok (t.skipIf (t.reg x == kk))) rfl

/-- SNE compares VX with KK and cannot fault (41_conditional_skip.md R132). -/
theorem exec_sneImm (x : RegNum) (kk : Byte) (s : State) :
    exec (.sneImm x kk) s = .next ((s.advance.skipIf (s.v[x] != kk)).setTag (opTag .SNE_IMM)) :=
  perform_ok (ins := .sneImm x kk) (body := fun t => .ok (t.skipIf (t.reg x != kk))) rfl

/-- Settles O25: SE with an immediate is a skip on VX = KK, SNE one on VX ≠ KK. -/
theorem immediateSkips : Obligations.ImmediateSkips :=
  ⟨fun x kk => ⟨decode_wordXKK_seImm x kk, decode_wordXKK_sneImm x kk⟩,
    fun x kk s => ⟨skip_on_eq (exec_seImm x kk s), skip_on_ne (exec_sneImm x kk s)⟩⟩

/-! ### SE and SNE with a register -/

/-- The high nibble 5 alone selects SE with a register: bits 3:0 are kept, not tested (41_conditional_skip.md R133). -/
theorem decode_word_seReg (x y : RegNum) (n : Nibble) :
    decode (word 0x5 (regNib x) (regNib y) n) = .seReg x y n := by
  simp [decode]

/-- The high nibble 9 alone selects SNE with a register: bits 3:0 are kept, not tested (41_conditional_skip.md R134). -/
theorem decode_word_sneReg (x y : RegNum) (n : Nibble) :
    decode (word 0x9 (regNib x) (regNib y) n) = .sneReg x y n := by
  simp [decode]

/-- SE compares VX with VY whatever bits 3:0 hold, and cannot fault (41_conditional_skip.md R133). -/
theorem exec_seReg (x y : RegNum) (n : Nibble) (s : State) :
    exec (.seReg x y n) s = .next ((s.advance.skipIf (s.v[x] == s.v[y])).setTag (opTag .SE_REG)) :=
  perform_ok (ins := .seReg x y n) (body := fun t => .ok (t.skipIf (t.reg x == t.reg y))) rfl

/-- SNE compares VX with VY whatever bits 3:0 hold, and cannot fault (41_conditional_skip.md R134). -/
theorem exec_sneReg (x y : RegNum) (n : Nibble) (s : State) :
    exec (.sneReg x y n) s = .next ((s.advance.skipIf (s.v[x] != s.v[y])).setTag (opTag .SNE_REG)) :=
  perform_ok (ins := .sneReg x y n) (body := fun t => .ok (t.skipIf (t.reg x != t.reg y))) rfl

/-- Settles O26: SE with a register is a skip on VX = VY, SNE one on VX ≠ VY, and neither looks at bits 3:0. -/
theorem registerSkips : Obligations.RegisterSkips :=
  ⟨fun x y n => ⟨decode_word_seReg x y n, decode_word_sneReg x y n⟩,
    fun x y n s => ⟨skip_on_eq (exec_seReg x y n s), skip_on_ne (exec_sneReg x y n s)⟩⟩

end Sys2Proof.Machine
end

section
/-!
SUPPORT. The load of an immediate (42_load_alu.md R141): a register write after the fetch's advance and its frame, the
word and the answered state of LD Vx, kk, and from these the statement on it.
-/

namespace Sys2Proof.Machine

/-! ### A register write after the fetch's advance -/

/-- The register written holds the byte (10_state.md R21). -/
theorem v_advance_setReg_setTag_self (s : State) (x : RegNum) (b : Byte) (tag : Word) :
    ((s.advance.setReg x b).setTag tag).v[x] = b :=
  reg_setReg_self s.advance x b

/-- The write of one register is the write of no other (10_state.md R21). -/
theorem otherRegs_advance_setReg_setTag (s : State) (x : RegNum) (b : Byte) (tag : Word) :
    OtherRegs [x] s ((s.advance.setReg x b).setTag tag) := by
  intro r hr
  have hxr : x ≠ r := (List.ne_of_not_mem_cons hr).symm
  exact (reg_setReg s.advance x r b).trans (if_neg hxr)

/-- A register write and the new TAG change nothing outside the registers, PC and TAG. -/
theorem onlyRegs_advance_setReg_setTag (s : State) (x : RegNum) (b : Byte) (tag : Word) :
    OnlyRegs s ((s.advance.setReg x b).setTag tag) := rfl

/-! ### LD with an immediate -/

/-- The high nibble 6 alone selects LD with an immediate (30_encoding.md R82). -/
theorem decode_wordXKK_ldImm (x : RegNum) (kk : Byte) : decode (wordXKK 0x6 x kk) = .ldImm x kk := by
  simp [decode]

/-- LD writes KK to VX and cannot fault (42_load_alu.md R141). -/
theorem exec_ldImm (x : RegNum) (kk : Byte) (s : State) :
    exec (.ldImm x kk) s = .next ((s.advance.setReg x kk).setTag (opTag .LD_IMM)) :=
  perform_ok (ins := .ldImm x kk) (body := fun t => .ok (t.setReg x kk)) rfl

/-- Settles O27: LD Vx, kk answers the state with KK in VX, so its frame is that of one register write. -/
theorem ldImmLoads : Obligations.LdImmLoads :=
  ⟨decode_wordXKK_ldImm, fun x kk s => ⟨_, exec_ldImm x kk s,
    v_advance_setReg_setTag_self s x kk _,
    otherRegs_advance_setReg_setTag s x kk _,
    onlyRegs_advance_setReg_setTag s x kk _⟩⟩

end Sys2Proof.Machine
end

section
/-!
SUPPORT. The index register (43_index_memory.md R170 to R172): which bodies keep I, that every instruction but the three
writers of I has such a body, the answered states of LD I and LD F, and from these the statement on the range of I.
-/

namespace Sys2Proof.Machine

/-! ### Bodies that keep I -/

/-- No result of the body has another I than the state it ran from. -/
def KeepsI (body : Body) : Prop := ∀ t u : State, body t = .ok u → u.i = t.i

theorem keepsI_ok {f : State → State} (h : ∀ t, (f t).i = t.i) : KeepsI fun t => .ok (f t) := by
  rintro t _ ⟨⟩
  exact h t

theorem keepsI_error (e : Trap) : KeepsI fun _ => .error e := by
  rintro t _ ⟨⟩

theorem keepsI_checkedAll {top : Nat} {cause : FaultCause} {as : State → List Nat} {rest : Body} (h : KeepsI rest) :
    KeepsI fun t => checkedAll top cause (as t) (rest t) := by
  intro t u hu
  simp only [checkedAll] at hu
  split at hu
  · cases hu
  · exact h t u hu

theorem keepsI_pushThen {p : State → Word} {rest : Body} (h : KeepsI rest) :
    KeepsI fun t => pushThen (p t) rest t := by
  intro t u hu
  simp only [pushThen] at hu
  split at hu
  · exact (h _ u hu :)
  · cases hu

theorem keepsI_popThen {rest : Word → Body} (h : ∀ p, KeepsI (rest p)) : KeepsI (popThen rest) := by
  intro t u hu
  simp only [popThen] at hu
  split at hu
  · exact (h _ _ u hu :)
  · cases hu

theorem keepsI_withKeyLine {k : State → Byte} {rest : Bool → Body} (h : ∀ down, KeepsI (rest down)) :
    KeepsI fun t => withKeyLine (k t) rest t := by
  intro t u hu
  simp only [withKeyLine] at hu
  split at hu
  · exact h _ t u hu
  · cases hu

/-- A fault keeps I too, since it undoes the step (60_exceptions.md R226). -/
theorem perform_i_of_keepsI {ins : Instr} {body : Body} {s t : State} (h : perform ins body s = .next t)
    (hb : KeepsI body) : t.i = s.i := by
  obtain ⟨u, hu, rfl⟩ | ⟨e, -, rfl⟩ := perform_cases h
  · exact hb s.advance u hu
  · rfl

/-! ### The instructions that keep I -/

@[simp] theorem loadRegs_i (s : State) (k : Nat) (bs : List Byte) : (loadRegs s k bs).i = s.i := by
  rw [loadRegs_eq]

/-- LD Vx, K writes VX, or WAIT_X and STATUS (45_keypad.md R203). -/
theorem execLdVxK_i {x : RegNum} {m : Nibble} {s t : State} (h : execLdVxK x m s = .next t) : t.i = s.i := by
  refine perform_i_of_keepsI h ?_
  intro u w hw
  dsimp only at hw
  split at hw <;> cases hw <;> rfl

/-- Every instruction but LD I, ADD I and LD F has a body that keeps I. -/
theorem exec_i_of_not_writer {i : Instr} {s t : State} (hi : i.op ∉ [.LD_I, .ADD_I_VX, .LD_F_VX])
    (h : exec i s = .next t) : t.i = s.i := by
  cases i <;> dsimp only [exec] at h
  case ldI | addIVx | ldFVx => simp [Instr.op] at hi
  case invalid => exact perform_i_of_keepsI h (keepsI_error _)
  case ret => exact perform_i_of_keepsI h (keepsI_popThen fun _ => keepsI_ok fun _ => rfl)
  case call => exact perform_i_of_keepsI h (keepsI_pushThen (keepsI_ok fun _ => rfl))
  case seImm | sneImm | seReg | sneReg => exact perform_i_of_keepsI h (keepsI_ok fun u => skipIf_i u _)
  case skp | sknp => exact perform_i_of_keepsI h (keepsI_withKeyLine fun _ => keepsI_ok fun u => skipIf_i u _)
  case ldBVx | ldMemVx => exact perform_i_of_keepsI h (keepsI_checkedAll (keepsI_ok fun _ => rfl))
  case ldVxMem => exact perform_i_of_keepsI h (keepsI_checkedAll (keepsI_ok fun u => loadRegs_i u _ _))
  case drw => exact perform_i_of_keepsI h (keepsI_checkedAll (keepsI_checkedAll (keepsI_ok fun _ => rfl)))
  case ldVxK => exact execLdVxK_i h
  case sys | jp | jpV0 | ldImm | addImm | ldReg | orReg | andReg | xorReg | addReg | sub | shr | subn | shl | rnd | cls
      | ldVxDt | ldDtVx | ldStVx =>
    exact perform_i_of_keepsI h (keepsI_ok fun _ => rfl)

/-! ### LD I -/

/-- The high nibble A alone selects LD I (30_encoding.md R82). -/
theorem decode_wordNNN_ldI (nnn : Imm12) : decode (wordNNN 0xA nnn) = .ldI nnn := by
  simp [decode]

/-- LD I writes NNN to I and cannot fault (43_index_memory.md R170). -/
theorem exec_ldI (nnn : Imm12) (s : State) :
    exec (.ldI nnn) s = .next ((s.advance.setI (addrOf nnn)).setTag (opTag .LD_I)) :=
  perform_ok (ins := .ldI nnn) (body := fun t => .ok (t.setI (addrOf nnn))) rfl

/-- A write of I and the new TAG change nothing outside I, PC and TAG. -/
theorem onlyI_advance_setI_setTag (s : State) (a tag : Word) : OnlyI s ((s.advance.setI a).setTag tag) := rfl

/-- A 12-bit address stays in memory (43_index_memory.md R170). -/
theorem addrOf_le (nnn : Imm12) : (addrOf nnn).toNat ≤ 0xFFF := by
  rw [toNat_addrOf]
  exact Nat.le_of_lt_succ nnn.isLt

/-! ### LD F -/

/-- The glyph address does not wrap (43_index_memory.md R172). -/
theorem toNat_five_mul_zext16 (b : Byte) : (5 * zext16 b).toNat = 5 * b.toNat := by
  have zext : (zext16 b).toNat = b.toNat := BitVec.toNat_setWidth_of_le (by decide)
  have small : b.toNat < 256 := b.isLt
  rw [BitVec.toNat_mul, zext]
  exact Nat.mod_eq_of_lt (show 5 * b.toNat < 65536 by omega)

/-- The pseudocode of LD F (43_index_memory.md R172). -/
def ldFBody (x : RegNum) : Body := fun t =>
  checked (decide ((t.reg x).toNat ≤ 0xF)) .glyphOutOfRange (zext16 (t.reg x)) (.ok (t.setI (5 * zext16 (t.reg x))))

theorem exec_ldFVx (x : RegNum) (m : Nibble) (s : State) :
    exec (.ldFVx x m) s = perform (.ldFVx x m) (ldFBody x) s := rfl

/-- LD F with a digit in VX points I at its glyph (43_index_memory.md R172). -/
theorem exec_ldFVx_digit {x : RegNum} {s : State} (m : Nibble) (h : (s.v[x]).toNat ≤ 0xF) :
    exec (.ldFVx x m) s = .next ((s.advance.setI (5 * zext16 s.v[x])).setTag (opTag .LD_F_VX)) :=
  (exec_ldFVx x m s).trans (perform_ok (checked_true (decide_eq_true h)))

/-- LD F with no digit in VX faults with VX as info (43_index_memory.md R172). -/
theorem exec_ldFVx_no_digit {x : RegNum} {s : State} (m : Nibble) (h : 0xF < (s.v[x]).toNat) :
    exec (.ldFVx x m) s = .next ((takeFault ⟨.glyphOutOfRange, zext16 s.v[x]⟩ s.pc (encode (.ldFVx x m)) s).setTag
      (opTag .LD_F_VX)) :=
  (exec_ldFVx x m s).trans (perform_error (checked_false (decide_eq_false (Nat.not_le.mpr h))))

/-- LD F leaves in I the address of a glyph, or I as it was. -/
theorem exec_ldFVx_i_le {x : RegNum} {m : Nibble} {s t : State} (h : exec (.ldFVx x m) s = .next t)
    (hs : s.i.toNat ≤ 0xFFF) : t.i.toNat ≤ 0xFFF := by
  obtain hd | hd := le_or_gt (s.v[x]).toNat 0xF
  · rw [exec_ldFVx_digit m hd] at h
    cases h
    rw [setTag_i, setI_i, toNat_five_mul_zext16]
    omega
  · rw [exec_ldFVx_no_digit m hd] at h
    cases h
    exact hs

/-! ### The range of I -/

/-- Of the three writers of I, only ADD I can leave the addresses of memory (43_index_memory.md R170). -/
theorem exec_i_le {i : Instr} {s t : State} (h : exec i s = .next t) (hs : s.i.toNat ≤ 0xFFF)
    (hi : i.op ≠ .ADD_I_VX) : t.i.toNat ≤ 0xFFF := by
  cases i with
  | ldI nnn =>
    rw [exec_ldI] at h
    cases h
    exact addrOf_le nnn
  | ldFVx x m => exact exec_ldFVx_i_le h hs
  | addIVx x m => exact absurd rfl hi
  | _ => rwa [exec_i_of_not_writer (by simp [Instr.op]) h]

/-- Settles O34: LD I writes a 12-bit value into I and nothing else but PC and TAG; every instruction but ADD I keeps I
within the addresses of memory. -/
theorem ldISetsI : Obligations.LdISetsI := by
  refine ⟨decode_wordNNN_ldI, fun nnn s => ⟨_, exec_ldI nnn s, ?value, onlyI_advance_setI_setTag s _ _⟩, ?range⟩
  case value => exact toNat_addrOf nnn
  case range =>
    intro i s t h hs ht
    by_contra hi
    exact absurd (exec_i_le h hs hi) (Nat.not_le.mpr ht)

end Sys2Proof.Machine
end

section
/-!
SUPPORT. The screen clear (44_display.md R191): its words and the state it answers; from these the statement on CLS.
-/

namespace Sys2Proof.Machine

/-- The high and the low nibble 0 select CLS: bits 11:4 are kept, not tested (30_encoding.md R82). -/
theorem decode_wordIgn_cls (ign : Byte) : decode (wordIgn 0x0 ign 0x0) = .cls ign := by
  simp [decode]

/-- CLS replaces the framebuffer by the cleared one and cannot fault (44_display.md R191). -/
theorem exec_cls (ign : Byte) (s : State) :
    exec (.cls ign) s = .next (({ s.advance with fb := Framebuffer.clear } : State).setTag (opTag .CLS)) :=
  perform_ok (ins := .cls ign) (body := fun t => .ok { t with fb := Framebuffer.clear }) rfl

/-- A new framebuffer after the fetch's advance and the new TAG change nothing outside the framebuffer, PC and TAG. -/
theorem onlyFb_advance_fb_setTag (s : State) (f : Framebuffer) (t : Word) :
    OnlyFb s (({ s.advance with fb := f } : State).setTag t) := rfl

/-- Settles O42: CLS answers the state with the cleared framebuffer, each cell of which reads 0, and the frame is by
definition. -/
theorem clsClearsEveryCell : Obligations.ClsClearsEveryCell := by
  refine ⟨decode_wordIgn_cls, fun ign s => ⟨_, exec_cls ign s, ?cells, onlyFb_advance_fb_setTag s _ _⟩⟩
  case cells =>
    intro n _
    exact cell_clear n

end Sys2Proof.Machine
end

section
/-!
SUPPORT. The decoder and the encoder are inverse to each other (30_encoding.md R80 to R92): a word put together again
from its fields, the words that no operation claims as arithmetic on the word, the code of every word and the instruction
of every code; from these the statements on the encoding.
-/

namespace Sys2Proof.Machine

/-! ### A word from its fields, the fixed nibbles given as numbers -/

theorem wordNNN_of_nib3 {w : Word} {n : Nibble} (h3 : (nib3 w).toNat = n.toNat) : wordNNN n (immNNN w) = w := by
  rw [← BitVec.eq_of_toNat_eq h3, wordNNN_fields]

theorem wordXKK_of_nib3 {w : Word} {n : Nibble} (h3 : (nib3 w).toNat = n.toNat) :
    wordXKK n (nibReg (nib2 w)) (immKK w) = w := by
  rw [← BitVec.eq_of_toNat_eq h3, wordXKK_fields]

theorem wordIgn_of_nibs {w : Word} {n m : Nibble} (h3 : (nib3 w).toNat = n.toNat) (h0 : (nib0 w).toNat = m.toNat) :
    wordIgn n (midByte w) m = w := by
  rw [← BitVec.eq_of_toNat_eq h3, ← BitVec.eq_of_toNat_eq h0, wordIgn_fields]

theorem word_of_nib3 {w : Word} {n : Nibble} (h3 : (nib3 w).toNat = n.toNat) :
    word n (nib2 w) (nib1 w) (nib0 w) = w := by
  rw [← BitVec.eq_of_toNat_eq h3, word_fields]

theorem word_of_nib3_nib0 {w : Word} {n m : Nibble} (h3 : (nib3 w).toNat = n.toNat) (h0 : (nib0 w).toNat = m.toNat) :
    word n (nib2 w) (nib1 w) m = w := by
  rw [← BitVec.eq_of_toNat_eq h0, word_of_nib3 h3]

theorem word_of_nib3_nib1_nib0 {w : Word} {n k m : Nibble} (h3 : (nib3 w).toNat = n.toNat)
    (h1 : (nib1 w).toNat = k.toNat) (h0 : (nib0 w).toNat = m.toNat) : word n (nib2 w) k m = w := by
  rw [← BitVec.eq_of_toNat_eq h1, word_of_nib3_nib0 h3 h0]

/-! ### The words that no operation claims -/

/-- A word no operation claims, in plain arithmetic: the high nibbles 0x8 (30_encoding.md R84), 0xE (R85) and 0xF (R86,
R87) with an unmapped low or middle nibble. -/
def Unmapped (w : Word) : Prop :=
  (w.toNat / 4096 = 0x8 ∧ w.toNat % 16 ∈ [0x8, 0x9, 0xA, 0xB, 0xC, 0xD, 0xF]) ∨
  (w.toNat / 4096 = 0xE ∧ w.toNat % 16 ≠ 0x1 ∧ w.toNat % 16 ≠ 0xE) ∨
  (w.toNat / 4096 = 0xF ∧ w.toNat % 16 ∈ [0x0, 0x1, 0x2, 0x4, 0x6, 0xB, 0xC, 0xD, 0xF]) ∨
  (w.toNat / 4096 = 0xF ∧ w.toNat % 16 = 0x5 ∧ w.toNat / 16 % 16 ∉ [0x1, 0x5, 0x6])

/-- The check of `Instr.wf` on a word of INVALID, by nibbles. -/
theorem unclaimedWord_nibs (w : Word) : unclaimedWord w =
    ((nib3 w == 0x8#4 && [0x8#4, 0x9#4, 0xA#4, 0xB#4, 0xC#4, 0xD#4, 0xF#4].contains (nib0 w))
    || (nib3 w == 0xE#4 && !([0x1#4, 0xE#4].contains (nib0 w)))
    || (nib3 w == 0xF#4 && [0x0#4, 0x1#4, 0x2#4, 0x4#4, 0x6#4, 0xB#4, 0xC#4, 0xD#4, 0xF#4].contains (nib0 w))
    || (nib3 w == 0xF#4 && nib0 w == 0x5#4 && !([0x1#4, 0x5#4, 0x6#4].contains (nib1 w)))) := rfl

theorem unclaimedWord_iff (w : Word) : unclaimedWord w = true ↔ Unmapped w := by
  simp [unclaimedWord_nibs, Unmapped, ← BitVec.toNat_inj, ← toNat_nib3, ← toNat_nib1, ← toNat_nib0, or_assoc, and_assoc]

/-- Only INVALID has a word that no operation claims. -/
theorem unclaimedWord_encode {i : Instr} (hi : i.op ≠ .INVALID) : unclaimedWord (encode i) = false := by
  cases i
  case invalid => exact absurd rfl hi
  all_goals simp [unclaimedWord_nibs, encode]

/-! ### The low nibbles left over by decode's cases -/

/-- Under the high nibble 0x8 (30_encoding.md R84). -/
theorem unmapped_low_8 : ∀ n < 16, n ∉ [0x0, 0x1, 0x2, 0x3, 0x4, 0x5, 0x6, 0x7, 0xE] →
    n ∈ [0x8, 0x9, 0xA, 0xB, 0xC, 0xD, 0xF] := by decide

/-- Under the high nibble 0xF (30_encoding.md R86). -/
theorem unmapped_low_F : ∀ n < 16, n ∉ [0x3, 0x5, 0x7, 0x8, 0x9, 0xA, 0xE] →
    n ∈ [0x0, 0x1, 0x2, 0x4, 0x6, 0xB, 0xC, 0xD, 0xF] := by decide

/-- The last case of decode's first choice is the high nibble 0xF. -/
theorem high_F : ∀ n < 16, n ∉ [0x0, 0x1, 0x2, 0x3, 0x4, 0x5, 0x6, 0x7, 0x8, 0x9, 0xA, 0xB, 0xC, 0xD, 0xE] →
    n = 0xF := by decide

/-! ### The code of every word -/

/-- The instruction is well formed and the word is its word. -/
def IsCode (w : Word) (i : Instr) : Prop := i.wf = true ∧ encode i = w

theorem isCode_sys {w : Word} (h3 : (nib3 w).toNat = 0x0) (h0 : (nib0 w).toNat ≠ 0x0) (hE : (nib0 w).toNat ≠ 0xE) :
    IsCode w (.sys (immNNN w)) := by
  refine ⟨?_, wordNNN_of_nib3 h3⟩
  simp [Instr.wf, immNNN_word_nib0, ← BitVec.toNat_inj, h0, hE]

theorem isCode_invalid {w : Word} (h : Unmapped w) : IsCode w (.invalid w) := ⟨(unclaimedWord_iff w).mpr h, rfl⟩

/-- Decode drops no bit: the instruction has the fixed nibbles of its pattern and keeps the others (30_encoding.md R82
to R89). -/
theorem isCode_decode (w : Word) : IsCode w (decode w) := by
  unfold decode
  split
  next h3 =>
    split
    next h0 => exact ⟨rfl, wordIgn_of_nibs h3 h0⟩
    next h0 => exact ⟨rfl, wordIgn_of_nibs h3 h0⟩
    next h0 hE => exact isCode_sys h3 h0 hE
  next h3 => exact ⟨rfl, wordNNN_of_nib3 h3⟩
  next h3 => exact ⟨rfl, wordNNN_of_nib3 h3⟩
  next h3 => exact ⟨rfl, wordXKK_of_nib3 h3⟩
  next h3 => exact ⟨rfl, wordXKK_of_nib3 h3⟩
  next h3 => exact ⟨rfl, word_of_nib3 h3⟩
  next h3 => exact ⟨rfl, wordXKK_of_nib3 h3⟩
  next h3 => exact ⟨rfl, wordXKK_of_nib3 h3⟩
  next h3 =>
    split
    iterate 9 next h0 => exact ⟨rfl, word_of_nib3_nib0 h3 h0⟩
    have hlow := unmapped_low_8 _ (nib0 w).isLt (by simp_all)
    exact isCode_invalid (.inl ⟨toNat_nib3 w ▸ h3, toNat_nib0 w ▸ hlow⟩)
  next h3 => exact ⟨rfl, word_of_nib3 h3⟩
  next h3 => exact ⟨rfl, wordNNN_of_nib3 h3⟩
  next h3 => exact ⟨rfl, wordNNN_of_nib3 h3⟩
  next h3 => exact ⟨rfl, wordXKK_of_nib3 h3⟩
  next h3 => exact ⟨rfl, word_of_nib3 h3⟩
  next h3 =>
    split
    next h0 => exact ⟨rfl, word_of_nib3_nib0 h3 h0⟩
    next h0 => exact ⟨rfl, word_of_nib3_nib0 h3 h0⟩
    next h0 hE => exact isCode_invalid (.inr (.inl ⟨toNat_nib3 w ▸ h3, toNat_nib0 w ▸ h0, toNat_nib0 w ▸ hE⟩))
  next =>
    have h3 : (nib3 w).toNat = 0xF := high_F _ (nib3 w).isLt (by simp_all)
    split
    next h0 => exact ⟨rfl, word_of_nib3_nib0 h3 h0⟩
    next h0 =>
      split
      iterate 3 next h1 => exact ⟨rfl, word_of_nib3_nib1_nib0 h3 h1 h0⟩
      next =>
        have hmid : (nib1 w).toNat ∉ [0x1, 0x5, 0x6] := by simp_all
        exact isCode_invalid (.inr (.inr (.inr ⟨toNat_nib3 w ▸ h3, toNat_nib0 w ▸ h0, toNat_nib1 w ▸ hmid⟩)))
    iterate 5 next h0 => exact ⟨rfl, word_of_nib3_nib0 h3 h0⟩
    have hlow := unmapped_low_F _ (nib0 w).isLt (by simp_all)
    exact isCode_invalid (.inr (.inr (.inl ⟨toNat_nib3 w ▸ h3, toNat_nib0 w ▸ hlow⟩)))

/-- Settles O2: the instruction decoded is well formed and its word is the word decoded. -/
theorem encodeOfDecodeIsIdentity : Obligations.EncodeOfDecodeIsIdentity := isCode_decode

/-! ### The words of INVALID -/

theorem eq_invalid_of_op {i : Instr} (h : i.op = .INVALID) : i = .invalid (encode i) := by
  cases i
  case invalid => rfl
  all_goals cases h

/-- INVALID keeps the whole word (30_encoding.md R92). -/
theorem decode_eq_invalid_of_op {w : Word} (h : (decode w).op = .INVALID) : decode w = .invalid w := by
  obtain ⟨-, hcode⟩ := isCode_decode w
  rw [eq_invalid_of_op h, hcode]

/-- A word that no operation claims is INVALID, since every other instruction has a claimed word. -/
theorem decode_op_of_unclaimed {w : Word} (h : unclaimedWord w = true) : (decode w).op = .INVALID := by
  by_contra hop
  obtain ⟨-, hcode⟩ := isCode_decode w
  have hclaimed := unclaimedWord_encode hop
  rw [hcode, h] at hclaimed
  cases hclaimed

theorem unmapped_of_decode_op {w : Word} (h : (decode w).op = .INVALID) : Unmapped w := by
  obtain ⟨hwf, -⟩ := isCode_decode w
  rw [decode_eq_invalid_of_op h] at hwf
  exact (unclaimedWord_iff w).mp hwf

/-- Settles O3: INVALID is decoded only with a word that passes its check, and a word that passes it decodes to no other
operation. -/
theorem invalidWordsClassified : Obligations.InvalidWordsClassified := fun w =>
  ⟨⟨unmapped_of_decode_op, fun h => decode_op_of_unclaimed ((unclaimedWord_iff w).mpr h)⟩, decode_eq_invalid_of_op⟩

/-! ### The instruction of every code -/

/-- The words of SYS are those that are neither CLS nor RET (30_encoding.md R82). -/
theorem decode_wordNNN_sys {nnn : Imm12} (h0 : nnn.extractLsb' 0 4 ≠ 0x0) (hE : nnn.extractLsb' 0 4 ≠ 0xE) :
    decode (wordNNN 0x0 nnn) = .sys nnn := by
  have h0' : (nnn.extractLsb' 0 4).toNat ≠ 0x0 := fun h => h0 (BitVec.eq_of_toNat_eq h)
  have hE' : (nnn.extractLsb' 0 4).toNat ≠ 0xE := fun h => hE (BitVec.eq_of_toNat_eq h)
  simp only [decode, nib3_wordNNN, nib0_wordNNN, immNNN_wordNNN]
  split
  · rfl
  all_goals contradiction

/-- Decode reads back every field the encoder wrote (30_encoding.md R80 to R87, R92). -/
theorem decode_encode (i : Instr) (h : i.wf = true) : decode (encode i) = i := by
  cases i
  case sys nnn =>
    obtain ⟨h0, hE⟩ : nnn.extractLsb' 0 4 ≠ 0x0 ∧ nnn.extractLsb' 0 4 ≠ 0xE := by simpa [Instr.wf] using h
    exact decode_wordNNN_sys h0 hE
  case invalid w => exact decode_eq_invalid_of_op (decode_op_of_unclaimed h)
  all_goals simp [decode, encode]

/-- Settles O1: by the pattern of each instruction. -/
theorem decodeOfEncodeIsIdentity : Obligations.DecodeOfEncodeIsIdentity := decode_encode

/-- Settles O4: each word is the word of the instruction named. -/
theorem specWordsDecode : Obligations.SpecWordsDecode :=
  ⟨decode_encode (.cls 0xAB) rfl, decode_encode (.ret 0xFF) rfl, decode_encode (.sys 0x0ED) (by decide),
    decode_encode (.call 0xFFF) rfl, decode_encode (.seReg 0xA 0xB 0x7) rfl, decode_encode (.addImm 0xF 0xFF) rfl,
    decode_encode (.shl 0xA 0xB) rfl, decode_encode (.invalid 0x8ABA) (by decide), decode_encode (.drw 2 3 5) rfl,
    decode_encode (.skp 1 0x0) rfl, decode_encode (.ldVxDt 1 0xF) rfl, decode_encode (.ldVxMem 1) rfl,
    decode_encode (.invalid 0xF125) (by decide)⟩

end Sys2Proof.Machine
end

section
/-!
SUPPORT. What an instruction can do, said once: its pseudocode as a body, the fields that a body that completes can
change, and the trap that a body that fails raises. The statements on all instructions are read off these.
-/

namespace Sys2Proof.Machine

/-! ### The bodies -/

/-- The decimal digits of a byte stored as LD B stores them: ones, tens, hundreds, from the highest address down
(43_index_memory.md R173). -/
def Memory.writeDigits (m : Memory) (a : Nat) (n : Byte) : Memory :=
  ((m.write (a + 2) (n % 10)).write (a + 1) (n / 10 % 10)).write a (n / 100)

/-- The pseudocode of each instruction, from the advance of PC on; `exec_eq_perform` ties it to `exec`. -/
def bodyOf : Instr → Body
  | .sys _ => fun t => .ok t
  | .ret _ => popThen fun p t => .ok (t.setPc p)
  | .jp nnn => fun t => .ok (t.setPc (addrOf nnn))
  | .call nnn => fun t => pushThen t.pc (fun u => .ok (u.setPc (addrOf nnn))) t
  | .jpV0 nnn => fun t => .ok (t.setPc (addrOf nnn + zext16 (t.reg 0)))
  | .seImm x kk => fun t => .ok (t.skipIf (t.reg x == kk))
  | .sneImm x kk => fun t => .ok (t.skipIf (t.reg x != kk))
  | .seReg x y _ => fun t => .ok (t.skipIf (t.reg x == t.reg y))
  | .sneReg x y _ => fun t => .ok (t.skipIf (t.reg x != t.reg y))
  | .ldImm x kk => fun t => .ok (t.setReg x kk)
  | .addImm x kk => fun t => .ok (t.setReg x (t.reg x + kk))
  | .ldReg x y => fun t => .ok (t.setReg x (t.reg y))
  | .orReg x y => fun t => .ok (t.setReg x (t.reg x ||| t.reg y))
  | .andReg x y => fun t => .ok (t.setReg x (t.reg x &&& t.reg y))
  | .xorReg x y => fun t => .ok (t.setReg x (t.reg x ^^^ t.reg y))
  | .addReg x y => fun t => .ok (t.setFlagThenReg (carryFlag (t.reg x) (t.reg y)) x (t.reg x + t.reg y))
  | .sub x y => fun t => .ok (t.setFlagThenReg (noBorrowFlag (t.reg x) (t.reg y)) x (t.reg x - t.reg y))
  | .shr x _ => fun t => .ok (t.setFlagThenReg (shrFlag (t.reg x)) x (t.reg x >>> 1))
  | .subn x y => fun t => .ok (t.setFlagThenReg (noBorrowFlag (t.reg y) (t.reg x)) x (t.reg y - t.reg x))
  | .shl x _ => fun t => .ok (t.setFlagThenReg (shlFlag (t.reg x)) x (t.reg x <<< 1))
  | .rnd x kk => fun t => .ok ({ t with draws := t.draws + 1 }.setReg x (Config.randByte t.draws &&& kk))
  | .ldI nnn => fun t => .ok (t.setI (addrOf nnn))
  | .addIVx x _ => fun t => .ok (t.setI (t.i + zext16 (t.reg x)))
  | .ldFVx x _ => ldFBody x
  | .ldBVx x _ => fun t => checkedAll 0xFFF .memOutOfRange (span (dataBase t) 3)
      (.ok { t with mem := t.mem.writeDigits (dataBase t) (t.reg x) })
  | .ldMemVx x => fun t => checkedAll 0xFFF .memOutOfRange (span (dataBase t) (x.val + 1))
      (.ok { t with mem := t.mem.writeList (dataBase t) (regsUpTo t x) })
  | .ldVxMem x => fun t => checkedAll 0xFFF .memOutOfRange (span (dataBase t) (x.val + 1))
      (.ok (loadRegs t 0 (t.mem.readList (dataBase t) (x.val + 1))))
  | .cls _ => fun t => .ok { t with fb := Framebuffer.clear }
  | .drw x y n => fun t => checkedAll 0xFFF .memOutOfRange (span (dataBase t) n.val)
      (checkedAll 2047 .fbOutOfRange (drawCells (drawBase t x y) n.val)
        (.ok ({ t with fb := (drawLoop t.fb (drawBits t.mem (dataBase t) (drawBase t x y) n.val)).1 }.setReg vf
          (flag (drawLoop t.fb (drawBits t.mem (dataBase t) (drawBase t x y) n.val)).2))))
  | .skp x _ => fun t => withKeyLine (t.reg x) (fun down u => .ok (u.skipIf down)) t
  | .sknp x _ => fun t => withKeyLine (t.reg x) (fun down u => .ok (u.skipIf (!down))) t
  | .ldVxK x _ => fun t =>
      match lowestKey t with
      | some k => .ok (t.setReg x (keyByte k))
      | none => .ok { t with waitX := x, status := .waitKey }
  | .ldVxDt x _ => fun t => .ok (t.setReg x t.dt)
  | .ldDtVx x => fun t => .ok { t with dt := t.reg x, dtIdle := false }
  | .ldStVx x _ => fun t => .ok { t with st := t.reg x, stIdle := false }
  | .invalid w => fun _ => .error ⟨.invalidOpcode, w⟩

theorem exec_eq_perform (i : Instr) (s : State) : exec i s = perform i (bodyOf i) s := by
  cases i <;> rfl

theorem exec_ok {i : Instr} {s u : State} (h : bodyOf i s.advance = .ok u) :
    exec i s = .next (u.setTag (opTag i.op)) :=
  (exec_eq_perform i s).trans (perform_ok h)

theorem exec_error {i : Instr} {s : State} {e : Trap} (h : bodyOf i s.advance = .error e) :
    exec i s = .next (faultedBy i e.cause e.info s) :=
  (exec_eq_perform i s).trans (perform_error h)

/-- What an instruction answers: the body's state with the tag, or the state before it with the fault entered. -/
theorem exec_cases {i : Instr} {s t : State} (h : exec i s = .next t) :
    (∃ u, bodyOf i s.advance = .ok u ∧ t = u.setTag (opTag i.op)) ∨
    (∃ e, bodyOf i s.advance = .error e ∧ t = faultedBy i e.cause e.info s) :=
  perform_cases ((exec_eq_perform i s).symm.trans h)

/-! ### The shared operations inverted -/

theorem checked_eq_ok {ok : Bool} {cause : FaultCause} {info : Word} {rest : Except Trap State} {u : State}
    (h : checked ok cause info rest = .ok u) : rest = .ok u := by
  cases ok
  · cases h
  · exact h

theorem checked_eq_error {ok : Bool} {cause : FaultCause} {info : Word} {v : State} {e : Trap}
    (h : checked ok cause info (.ok v) = .error e) : ok = false ∧ e = ⟨cause, info⟩ := by
  cases ok
  · cases h; exact ⟨rfl, rfl⟩
  · cases h

theorem checkedAll_eq_ok {top : Nat} {cause : FaultCause} {as : List Nat} {rest : Except Trap State} {u : State}
    (h : checkedAll top cause as rest = .ok u) : (∀ a ∈ as, a ≤ top) ∧ rest = .ok u := by
  unfold checkedAll at h
  split at h
  · cases h
  · next hnone => exact ⟨by simpa using hnone, h⟩

theorem checkedAll_span_eq_ok {cause : FaultCause} {b n : Nat} {rest : Except Trap State} {u : State}
    (h : checkedAll 0xFFF cause (span b n) rest = .ok u) : (n = 0 ∨ b + n ≤ 0x1000) ∧ rest = .ok u := by
  rw [checkedAll_span] at h
  split at h
  · exact ⟨‹_›, h⟩
  · cases h

theorem pushThen_eq_ok {p : Word} {rest : Body} {t u : State} (h : pushThen p rest t = .ok u) :
    ∃ hs : t.sp.val < 16, rest { t with stack := t.stack.set t.sp.val p, sp := ⟨t.sp.val + 1, by omega⟩ } = .ok u := by
  unfold pushThen at h
  split at h
  · exact ⟨‹_›, h⟩
  · cases h

theorem pushThen_eq_error {p : Word} {f : State → State} {t : State} {e : Trap}
    (h : pushThen p (fun u => .ok (f u)) t = .error e) : t.sp.val = 16 ∧ e = ⟨.stackOverflow, 16⟩ := by
  obtain hs | hs : t.sp.val < 16 ∨ t.sp.val = 16 := by omega
  · rw [pushThen_ok hs] at h; cases h
  · rw [pushThen_full hs] at h; cases h; exact ⟨hs, rfl⟩

theorem popThen_eq_ok {rest : Word → Body} {t u : State} (h : popThen rest t = .ok u) :
    ∃ hs : 0 < t.sp.val, rest (t.stack[t.sp.val - 1]'(by omega)) { t with sp := ⟨t.sp.val - 1, by omega⟩ } = .ok u := by
  unfold popThen at h
  split at h
  · exact ⟨‹_›, h⟩
  · cases h

theorem popThen_eq_error {f : Word → State → State} {t : State} {e : Trap}
    (h : popThen (fun p u => .ok (f p u)) t = .error e) : t.sp.val = 0 ∧ e = ⟨.stackUnderflow, 0⟩ := by
  obtain hs | hs := Nat.eq_zero_or_pos t.sp.val
  · rw [popThen_empty hs] at h; cases h; exact ⟨hs, rfl⟩
  · rw [popThen_ok hs] at h; cases h

theorem withKeyLine_of_lt {k : Byte} {rest : Bool → Body} {t : State} (h : k.toNat < 16) :
    withKeyLine k rest t = rest (t.keyLine ⟨k.toNat, h⟩) t := dif_pos h

theorem withKeyLine_of_gt {k : Byte} {rest : Bool → Body} {t : State} (h : 0xF < k.toNat) :
    withKeyLine k rest t = .error ⟨.keyOutOfRange, zext16 k⟩ := dif_neg (by omega)

theorem withKeyLine_eq_ok {k : Byte} {rest : Bool → Body} {t u : State} (h : withKeyLine k rest t = .ok u) :
    ∃ down, rest down t = .ok u := by
  unfold withKeyLine at h
  split at h
  · exact ⟨_, h⟩
  · cases h

theorem withKeyLine_eq_error {k : Byte} {f : Bool → State → State} {t : State} {e : Trap}
    (h : withKeyLine k (fun down u => .ok (f down u)) t = .error e) :
    0xF < k.toNat ∧ e = ⟨.keyOutOfRange, zext16 k⟩ := by
  obtain hk | hk : k.toNat < 16 ∨ 0xF < k.toNat := by omega
  · rw [withKeyLine_of_lt hk] at h; cases h
  · rw [withKeyLine_of_gt hk] at h; cases h; exact ⟨hk, rfl⟩

/-- A hold starts only with every key line at 0 (45_keypad.md R203). -/
theorem bodyOf_ldVxK_cases (x : RegNum) (m : Nibble) (t : State) :
    (∃ k, bodyOf (.ldVxK x m) t = .ok (t.setReg x (keyByte k))) ∨
    ((∀ k : RegNum, t.key[k] = false) ∧ bodyOf (.ldVxK x m) t = .ok { t with waitX := x, status := .waitKey }) := by
  dsimp only [bodyOf]
  split
  · exact .inl ⟨_, rfl⟩
  · next hnone => exact .inr ⟨lowestKey_none.mp hnone, rfl⟩

/-! ### The fields that a body can change -/

/-- The body of the instruction, run from `t` to its end at `u`, has changed no field but those named. -/
def Frame (i : Instr) (t u : State) : Prop :=
  match i with
  | .sys _ | .invalid _ => u = t
  | .jp _ | .jpV0 _ | .seImm _ _ | .sneImm _ _ | .seReg _ _ _ | .sneReg _ _ _ | .skp _ _ | .sknp _ _ =>
    u = { t with pc := u.pc }
  | .ret _ => u = { t with pc := u.pc, sp := u.sp }
  | .call _ => u = { t with pc := u.pc, sp := u.sp, stack := u.stack }
  | .ldImm _ _ | .addImm _ _ | .ldReg _ _ | .orReg _ _ | .andReg _ _ | .xorReg _ _ | .addReg _ _ | .sub _ _ | .shr _ _
  | .subn _ _ | .shl _ _ | .ldVxMem _ | .ldVxDt _ _ => u = { t with v := u.v }
  | .rnd _ _ => u = { t with v := u.v, draws := u.draws }
  | .ldI _ | .addIVx _ _ | .ldFVx _ _ => u = { t with i := u.i }
  | .ldBVx _ _ | .ldMemVx _ => u = { t with mem := u.mem }
  | .cls _ => u = { t with fb := u.fb }
  | .drw _ _ _ => u = { t with fb := u.fb, v := u.v }
  | .ldVxK _ _ => u = { t with v := u.v, waitX := u.waitX, status := u.status }
  | .ldDtVx _ => u = { t with dt := u.dt, dtIdle := u.dtIdle }
  | .ldStVx _ _ => u = { t with st := u.st, stIdle := u.stIdle }

theorem eq_skipIf (t : State) (c : Bool) : t.skipIf c = { t with pc := (t.skipIf c).pc } := by
  cases c <;> rfl

theorem bodyOf_frame {i : Instr} {t u : State} (h : bodyOf i t = .ok u) : Frame i t u := by
  cases i <;> dsimp only [bodyOf] at h
  case invalid => cases h
  case ret => obtain ⟨_, hu⟩ := popThen_eq_ok h; cases hu; rfl
  case call => obtain ⟨_, hu⟩ := pushThen_eq_ok h; cases hu; rfl
  case seImm | sneImm | seReg | sneReg => cases h; exact eq_skipIf t _
  case skp | sknp => obtain ⟨_, hu⟩ := withKeyLine_eq_ok h; cases hu; exact eq_skipIf t _
  case ldFVx => cases checked_eq_ok h; rfl
  case ldBVx | ldMemVx => cases (checkedAll_eq_ok h).2; rfl
  case ldVxMem => cases (checkedAll_eq_ok h).2; exact loadRegs_eq t 0 _
  case drw => cases (checkedAll_eq_ok (checkedAll_eq_ok h).2).2; rfl
  case ldVxK => split at h <;> cases h <;> rfl
  all_goals cases h; rfl

/-! ### The traps that a body can raise -/

/-- The lowest of `n` addresses from `b` that does not exist is reported (60_exceptions.md R227). -/
def MemTrap (b n : Nat) (e : Trap) : Prop :=
  n ≠ 0 ∧ 0x1000 < b + n ∧ e = ⟨.memOutOfRange, BitVec.ofNat 16 (max b 0x1000)⟩

/-- The lowest cell of `n` sprite rows that does not exist is reported (60_exceptions.md R227). -/
def CellTrap (base n : Nat) (e : Trap) : Prop :=
  ∃ k ∈ drawCells base n, 2047 < k ∧ (∀ j ∈ drawCells base n, 2047 < j → k ≤ j) ∧
    e = ⟨.fbOutOfRange, BitVec.ofNat 16 k⟩

/-- The trap that the body of the instruction raises from `t`, and the condition under which it does. -/
def Raises (i : Instr) (t : State) (e : Trap) : Prop :=
  match i with
  | .invalid w => e = ⟨.invalidOpcode, w⟩
  | .ret _ => t.sp.val = 0 ∧ e = ⟨.stackUnderflow, 0⟩
  | .call _ => t.sp.val = 16 ∧ e = ⟨.stackOverflow, 16⟩
  | .ldFVx x _ => 0xF < (t.reg x).toNat ∧ e = ⟨.glyphOutOfRange, zext16 (t.reg x)⟩
  | .ldBVx _ _ => MemTrap (dataBase t) 3 e
  | .ldMemVx x | .ldVxMem x => MemTrap (dataBase t) (x.val + 1) e
  | .drw x y n =>
    MemTrap (dataBase t) n.val e ∨ (dataBase t + n.val ≤ 0x1000 ∧ CellTrap (drawBase t x y) n.val e)
  | .skp x _ | .sknp x _ => 0xF < (t.reg x).toNat ∧ e = ⟨.keyOutOfRange, zext16 (t.reg x)⟩
  | _ => False

theorem checkedAll_span_eq_error {b n : Nat} {rest : Except Trap State} {e : Trap}
    (h : checkedAll 0xFFF .memOutOfRange (span b n) rest = .error e) :
    MemTrap b n e ∨ ((n = 0 ∨ b + n ≤ 0x1000) ∧ rest = .error e) := by
  rw [checkedAll_span] at h
  split at h
  · exact .inr ⟨‹_›, h⟩
  · cases h; exact .inl ⟨by omega, by omega, rfl⟩

theorem checkedAll_span_ok_eq_error {b n : Nat} {v : State} {e : Trap}
    (h : checkedAll 0xFFF .memOutOfRange (span b n) (.ok v) = .error e) : MemTrap b n e := by
  obtain htrap | ⟨-, ⟨⟩⟩ := checkedAll_span_eq_error h
  exact htrap

theorem checkedAll_drawCells_eq_error {base n : Nat} {v : State} {e : Trap}
    (h : checkedAll 2047 .fbOutOfRange (drawCells base n) (.ok v) = .error e) : CellTrap base n e := by
  obtain ⟨-, hok⟩ | ⟨k, hk, hgt, hmin, herr⟩ :=
    checkedAll_cases 2047 .fbOutOfRange (drawCells base n) (.ok v) (drawCells_pairwise base n)
  · rw [hok] at h; cases h
  · rw [herr] at h; cases h; exact ⟨k, hk, hgt, hmin, rfl⟩

/-- Only a sprite with a row has a cell, so its addresses have been checked. -/
theorem CellTrap.rows_ne_zero {base n : Nat} {e : Trap} (h : CellTrap base n e) : n ≠ 0 := by
  obtain ⟨k, hk, -⟩ := h
  obtain ⟨r, hr, -⟩ := mem_drawCells.mp hk
  omega

theorem bodyOf_raises {i : Instr} {t : State} {e : Trap} (h : bodyOf i t = .error e) : Raises i t e := by
  cases i <;> dsimp only [bodyOf] at h
  case invalid => cases h; rfl
  case ret => exact popThen_eq_error h
  case call => exact pushThen_eq_error h
  case ldFVx =>
    obtain ⟨hd, rfl⟩ := checked_eq_error h
    exact ⟨Nat.lt_of_not_le (of_decide_eq_false hd), rfl⟩
  case ldBVx | ldMemVx | ldVxMem => exact checkedAll_span_ok_eq_error h
  case drw =>
    obtain hmem | ⟨hfits, hcells⟩ := checkedAll_span_eq_error h
    · exact .inl hmem
    · have hcell := checkedAll_drawCells_eq_error hcells
      exact .inr ⟨hfits.resolve_left hcell.rows_ne_zero, hcell⟩
  case skp | sknp => exact withKeyLine_eq_error h
  case ldVxK => split at h <;> cases h
  all_goals cases h

/-- A raised trap has a fault's cause (60_exceptions.md R221). -/
theorem Raises.cause_ne_none {i : Instr} {t : State} {e : Trap} (h : Raises i t e) : e.cause ≠ .none := by
  cases i <;> simp only [Raises, MemTrap, CellTrap] at h
  case invalid => subst h; simp
  case ret | call | ldFVx | skp | sknp => obtain ⟨-, rfl⟩ := h; simp
  case ldBVx | ldMemVx | ldVxMem => obtain ⟨-, -, rfl⟩ := h; simp
  case drw => obtain ⟨-, -, rfl⟩ | ⟨-, k, -, -, -, rfl⟩ := h <;> simp

end Sys2Proof.Machine
end

section
/-!
SUPPORT. Which instruction changes which field (10_state.md): each field by its writers, read off the frame of the body,
and what the writers of the registers, of memory, of the stack and of STATUS leave; from these the statements on the
writers of the state, on PC, on STATUS and on faults.
-/

namespace Sys2Proof.Machine

section
variable {i : Instr} {t u : State}

/-! ### Fields by their writers -/

/-- The operations that write PC beyond the fetch's advance (10_state.md R26). -/
abbrev pcWriters : List Op := [.RET, .JP, .CALL, .JP_V0, .SE_IMM, .SNE_IMM, .SE_REG, .SNE_REG, .SKP, .SKNP]

theorem Frame.pc (h : Frame i t u) (hi : i.op ∉ pcWriters) : u.pc = t.pc := by
  cases i
  case ret | jp | call | jpV0 | seImm | sneImm | seReg | sneReg | skp | sknp => simp [Instr.op] at hi
  all_goals exact (congrArg State.pc h :)

theorem Frame.sp (h : Frame i t u) (hi : i.op ∉ [.CALL, .RET]) : u.sp = t.sp := by
  cases i
  case call | ret => simp [Instr.op] at hi
  all_goals exact (congrArg State.sp h :)

theorem Frame.stack (h : Frame i t u) (hi : i.op ≠ .CALL) : u.stack = t.stack := by
  cases i
  case call => exact absurd rfl hi
  all_goals exact (congrArg State.stack h :)

theorem Frame.delay (h : Frame i t u) (hi : i.op ≠ .LD_DT_VX) : u.dt = t.dt ∧ u.dtIdle = t.dtIdle := by
  cases i
  case ldDtVx => exact absurd rfl hi
  all_goals exact ⟨(congrArg State.dt h :), (congrArg State.dtIdle h :)⟩

theorem Frame.soundTimer (h : Frame i t u) (hi : i.op ≠ .LD_ST_VX) : u.st = t.st ∧ u.stIdle = t.stIdle := by
  cases i
  case ldStVx => exact absurd rfl hi
  all_goals exact ⟨(congrArg State.st h :), (congrArg State.stIdle h :)⟩

theorem Frame.key (h : Frame i t u) : u.key = t.key := by
  cases i <;> exact (congrArg State.key h :)

theorem Frame.fb (h : Frame i t u) (hi : i.op ∉ [.CLS, .DRW]) : u.fb = t.fb := by
  cases i
  case cls | drw => simp [Instr.op] at hi
  all_goals exact (congrArg State.fb h :)

theorem Frame.mem (h : Frame i t u) (hi : i.op ∉ [.LD_B_VX, .LD_MEM_VX]) : u.mem = t.mem := by
  cases i
  case ldBVx | ldMemVx => simp [Instr.op] at hi
  all_goals exact (congrArg State.mem h :)

theorem Frame.waitX (h : Frame i t u) (hi : i.op ≠ .LD_VX_K) : u.waitX = t.waitX := by
  cases i
  case ldVxK => exact absurd rfl hi
  all_goals exact (congrArg State.waitX h :)

theorem Frame.status (h : Frame i t u) (hi : i.op ≠ .LD_VX_K) : u.status = t.status := by
  cases i
  case ldVxK => exact absurd rfl hi
  all_goals exact (congrArg State.status h :)

theorem Frame.draws (h : Frame i t u) (hi : i.op ≠ .RND) : u.draws = t.draws := by
  cases i
  case rnd => exact absurd rfl hi
  all_goals exact (congrArg State.draws h :)

/-- A body that completes writes no fault register (60_exceptions.md R226). -/
theorem Frame.faultRegisters (h : Frame i t u) : u.faultCause = t.faultCause ∧ u.faultPc = t.faultPc ∧
    u.faultWord = t.faultWord ∧ u.faultInfo = t.faultInfo := by
  cases i <;> exact ⟨(congrArg State.faultCause h :), (congrArg State.faultPc h :),
    (congrArg State.faultWord h :), (congrArg State.faultInfo h :)⟩

/-! ### The general registers -/

theorem v_setReg_of_ne (t : State) {x r : RegNum} (b : Byte) (h : (r == x) = false) : (t.setReg x b).v[r] = t.v[r] :=
  (reg_setReg t x r b).trans (if_neg (beq_eq_false_iff_ne.mp h).symm)

theorem v_setFlagThenReg_of_ne (t : State) (f : Byte) {x r : RegNum} (b : Byte) (h : (r == x || r == vf) = false) :
    (t.setFlagThenReg f x b).v[r] = t.v[r] := by
  obtain ⟨hx, hf⟩ := Bool.or_eq_false_iff.mp h
  exact (v_setReg_of_ne _ b hx).trans (v_setReg_of_ne t f hf)

/-- A transfer of `x + 1` bytes leaves the registers above VX (43_index_memory.md R175). -/
theorem v_loadRegs_of_gt (t : State) {x r : RegNum} (bs : List Byte) (hbs : bs.length = x.val + 1) (h : x < r) :
    (loadRegs t 0 bs).v[r] = t.v[r] := by
  have hr : bs.length ≤ r.val - 0 := hbs.trans_le (Fin.lt_def.mp h)
  rw [loadRegs_get, List.getElem?_eq_none hr]
  simp

/-- The destination and, in a flag writer, VF are the only registers a body writes (10_state.md R22, R24). -/
theorem bodyOf_v {r : RegNum} (h : bodyOf i t = .ok u) (hr : writesReg i r = false) : u.v[r] = t.v[r] := by
  have hframe := bodyOf_frame h
  cases i
  case ldImm | addImm | ldReg | orReg | andReg | xorReg | rnd | ldVxDt => cases h; exact v_setReg_of_ne _ _ hr
  case addReg | sub | shr | subn | shl => cases h; exact v_setFlagThenReg_of_ne _ _ _ hr
  case ldVxMem x =>
    cases (checkedAll_eq_ok h).2
    exact v_loadRegs_of_gt t _ (Memory.length_readList ..) (lt_of_not_ge (of_decide_eq_false hr))
  case drw => cases (checkedAll_eq_ok (checkedAll_eq_ok h).2).2; exact v_setReg_of_ne _ _ hr
  case ldVxK x m =>
    obtain ⟨k, hk⟩ | ⟨-, hhold⟩ := bodyOf_ldVxK_cases x m t
    · cases hk.symm.trans h; exact v_setReg_of_ne _ _ hr
    · cases hhold.symm.trans h; rfl
  all_goals exact (congrArg (fun w : State => w.v[r]) hframe :)

/-! ### Memory -/

theorem Memory.wf_writeDigits {m : Memory} (h : m.wf = true) (a : Nat) (n : Byte) : (m.writeDigits a n).wf = true :=
  wf_write (wf_write (wf_write h _ _) _ _) _ _

@[simp] theorem Memory.writeDigits_font (m : Memory) (a : Nat) (n : Byte) : (m.writeDigits a n).font = m.font := by
  simp [Memory.writeDigits]

/-- The three bytes that LD B stores, and no other (43_index_memory.md R173). -/
theorem Memory.read_writeDigits (m : Memory) {a : Nat} (n : Byte) (c : Nat) (h : a + 3 ≤ 0x1000) :
    (m.writeDigits a n).read c =
      if c = a then n / 100 else if c = a + 1 then n / 10 % 10 else if c = a + 2 then n % 10 else m.read c := by
  rw [Memory.writeDigits, read_write _ _ _ (by omega), read_write _ _ _ (by omega), read_write _ _ _ (by omega)]

/-- A list of stored bytes leaves the addresses below and above it. -/
theorem Memory.read_writeList_outside (m : Memory) {a : Nat} (bs : List Byte) {c : Nat} (h : a + bs.length ≤ 0x1000)
    (hc : c < a ∨ a + bs.length ≤ c) : (m.writeList a bs).read c = m.read c := by
  rw [read_writeList _ _ _ _ h]
  split
  · rw [List.getElem?_eq_none (by omega)]; rfl
  · rfl

theorem bodyOf_ldBVx_eq_ok {x : RegNum} {m : Nibble} (h : bodyOf (.ldBVx x m) t = .ok u) :
    dataBase t + 3 ≤ 0x1000 ∧ u = { t with mem := t.mem.writeDigits (dataBase t) (t.reg x) } := by
  obtain ⟨hfits, hu⟩ := checkedAll_span_eq_ok h
  cases hu
  exact ⟨by omega, rfl⟩

theorem bodyOf_ldMemVx_eq_ok {x : RegNum} (h : bodyOf (.ldMemVx x) t = .ok u) :
    dataBase t + (x.val + 1) ≤ 0x1000 ∧ u = { t with mem := t.mem.writeList (dataBase t) (regsUpTo t x) } := by
  obtain ⟨hfits, hu⟩ := checkedAll_span_eq_ok h
  cases hu
  exact ⟨by omega, rfl⟩

theorem bodyOf_mem_wf (h : bodyOf i t = .ok u) (ht : t.mem.wf = true) : u.mem.wf = true := by
  have hframe := bodyOf_frame h
  cases i
  case ldBVx => obtain ⟨-, rfl⟩ := bodyOf_ldBVx_eq_ok h; exact Memory.wf_writeDigits ht _ _
  case ldMemVx => obtain ⟨-, rfl⟩ := bodyOf_ldMemVx_eq_ok h; exact Memory.wf_writeList ht _ _
  all_goals exact (congrArg (fun w : State => w.mem.wf) hframe :).trans ht

/-- Nothing writes FONT (20_memory.md R58). -/
theorem bodyOf_font (h : bodyOf i t = .ok u) : u.mem.font = t.mem.font := by
  have hframe := bodyOf_frame h
  cases i
  case ldBVx => obtain ⟨-, rfl⟩ := bodyOf_ldBVx_eq_ok h; exact Memory.writeDigits_font _ _ _
  case ldMemVx => obtain ⟨-, rfl⟩ := bodyOf_ldMemVx_eq_ok h; exact Memory.writeList_font _ _ _
  all_goals exact (congrArg (fun w : State => w.mem.font) hframe :)

/-- Only FX33 and FX55 store, and only to the addresses of their access (43_index_memory.md R173, R174). -/
theorem bodyOf_stores {a : Nat} (h : bodyOf i t = .ok u) (ha : u.readByte a ≠ t.readByte a) :
    (i.op = .LD_B_VX ∧ dataBase t ≤ a ∧ a ≤ dataBase t + 2) ∨
    (∃ x : RegNum, i = .ldMemVx x ∧ dataBase t ≤ a ∧ a ≤ dataBase t + x.val) := by
  have hframe := bodyOf_frame h
  cases i
  case ldBVx x m =>
    obtain ⟨hfits, rfl⟩ := bodyOf_ldBVx_eq_ok h
    refine .inl ⟨rfl, ?_⟩
    by_contra hout
    refine ha ((Memory.read_writeDigits t.mem (t.reg x) a hfits).trans ?_)
    rw [if_neg (by omega), if_neg (by omega), if_neg (by omega)]
    rfl
  case ldMemVx x =>
    obtain ⟨hfits, rfl⟩ := bodyOf_ldMemVx_eq_ok h
    refine .inr ⟨x, rfl, ?_⟩
    by_contra hout
    have hlen := length_regsUpTo t x
    exact ha (Memory.read_writeList_outside t.mem _ (by omega) (by omega))
  all_goals exact absurd (congrArg (fun w : State => w.readByte a) hframe :) ha

/-! ### The stack -/

/-- A stack slot is kept or receives the PC that CALL pushes (40_control_flow.md R113). -/
theorem bodyOf_stack (h : bodyOf i t = .ok u) (j : Fin 16) : u.stack[j] = t.stack[j] ∨ u.stack[j] = t.pc := by
  have hframe := bodyOf_frame h
  cases i
  case call nnn =>
    dsimp only [bodyOf] at h
    obtain ⟨hs, hu⟩ := pushThen_eq_ok h
    cases hu
    by_cases hj : t.sp.val = j.val
    · right; simp [hj]
    · left; simp [hj]
  all_goals exact .inl (congrArg (fun w : State => w.stack[j]) hframe :)

/-! ### STATUS -/

/-- A body that completes keeps STATUS, but for the hold of LD_VX_K with no key line at 1 (45_keypad.md R203). -/
theorem bodyOf_status (h : bodyOf i t = .ok u) :
    u.status = t.status ∨ (i.op = .LD_VX_K ∧ u.status = .waitKey ∧ ∀ k : RegNum, u.key[k] = false) := by
  by_cases hop : i.op = .LD_VX_K
  case neg => exact .inl ((bodyOf_frame h).status hop)
  case pos =>
    cases i <;> cases hop
    next x m =>
    obtain ⟨k, hk⟩ | ⟨hkeys, hhold⟩ := bodyOf_ldVxK_cases x m t
    · cases hk.symm.trans h; exact .inl rfl
    · cases hhold.symm.trans h; exact .inr ⟨rfl, rfl, hkeys⟩

/-- From RUN, a body that completes leaves RUN or a hold. -/
theorem bodyOf_status_ne_faulted (h : bodyOf i t = .ok u) (ht : t.status = .run) : u.status ≠ .faulted := by
  obtain hu | ⟨-, hu, -⟩ := bodyOf_status h
  · simp [hu, ht]
  · simp [hu]

end

/-- Settles O15: a fault writes no register, and a completed body only those named. -/
theorem registersWrittenOnlyAsNamed : Obligations.RegistersWrittenOnlyAsNamed := by
  intro i s t r h hne
  obtain ⟨u, hu, rfl⟩ | ⟨e, -, rfl⟩ := exec_cases h
  · exact (Bool.not_eq_false _).mp fun hr => hne (bodyOf_v hu hr :)
  · exact absurd rfl hne

/-- Settles O16: a fault writes STATUS, the fault registers and TAG; a completed body keeps each field but in the
field's writers. -/
theorem stateElementsHaveTheirWriters : Obligations.StateElementsHaveTheirWriters := by
  intro i s t h
  have htag := exec_tag h
  obtain ⟨u, hu, rfl⟩ | ⟨e, -, rfl⟩ := exec_cases h
  case inl =>
    have hframe := bodyOf_frame hu
    have hstatus : u.status ≠ s.status → u.status = .faulted ∨ (u.status = .waitKey ∧ i.op = .LD_VX_K) := fun hne =>
      (bodyOf_status hu).elim (absurd · hne) fun ⟨hop, hwait, _⟩ => .inr ⟨hwait, hop⟩
    exact ⟨not_imp_comm.mp fun hi => exec_i_of_not_writer hi h, not_imp_comm.mp hframe.sp, not_imp_comm.mp hframe.stack,
      fun hne => not_imp_comm.mp hframe.delay (by tauto), fun hne => not_imp_comm.mp hframe.soundTimer (by tauto),
      hframe.key, not_imp_comm.mp hframe.fb, not_imp_comm.mp hframe.mem, fun _ => (bodyOf_stores hu :),
      (bodyOf_font hu :), not_imp_comm.mp hframe.waitX, not_imp_comm.mp hframe.draws, hstatus, fun _ => hframe.faultRegisters, htag⟩
  case inr => simp [faultedBy, State.readByte]

/-! ### The step as a whole -/

/-- Settles O8: a fault is a next state too, and of the completed bodies only that of LD_VX_K can leave a hold. -/
theorem stepsAnswerAndOnlyKeyWaitHolds : Obligations.StepsAnswerAndOnlyKeyWaitHolds := by
  refine ⟨step_next, act_next, fun i s t hs h hwait => ?_⟩
  obtain ⟨u, hu, rfl⟩ | ⟨e, -, rfl⟩ := exec_cases h
  · obtain hkept | ⟨hop, -⟩ := bodyOf_status hu
    · cases hs.symm.trans (hkept.symm.trans hwait)
    · exact hop
  · cases hwait

/-- Settles O9: the body starts with PC at a + 2 and is none of those that write PC. -/
theorem otherInstructionsAdvancePcByTwo : Obligations.OtherInstructionsAdvancePcByTwo := by
  intro i s t _ h hfault hi
  obtain ⟨u, hu, rfl⟩ | ⟨e, -, rfl⟩ := exec_cases h
  · exact (bodyOf_frame hu).pc hi
  · exact absurd rfl hfault

/-- Settles O10: each instruction writes the tag of its operation, and the tags are distinct. -/
theorem tagNamesTheOperation : Obligations.TagNamesTheOperation := by
  intro i j s s' t t' h h'
  obtain ⟨htag, hheld⟩ := exec_tag h
  obtain ⟨htag', -⟩ := exec_tag h'
  rw [htag, htag']
  exact ⟨hheld, opTag_injective, congrArg opTag⟩

/-! ### Faults -/

/-- An instruction that leaves FAULTED from RUN has raised a trap. -/
theorem exec_faulted {i : Instr} {s t : State} (hs : s.status = .run) (h : exec i s = .next t)
    (ht : t.status = .faulted) : ∃ e, Raises i s.advance e ∧ t = faultedBy i e.cause e.info s := by
  obtain ⟨u, hu, rfl⟩ | ⟨e, he, rfl⟩ := exec_cases h
  · exact absurd ht (bodyOf_status_ne_faulted hu hs :)
  · exact ⟨e, bodyOf_raises he, rfl⟩

/-- Settles O12: the state after a fault is the state before it with the trap entered. -/
theorem faultsArePrecise : Obligations.FaultsArePrecise := by
  intro i s t hs h ht
  obtain ⟨e, he, rfl⟩ := exec_faulted hs h ht
  exact ⟨he.cause_ne_none, rfl⟩

theorem toNat_zext16 (b : Byte) : (zext16 b).toNat = b.toNat := BitVec.toNat_setWidth_of_le (by decide)

/-- An address above memory that I can hold, or the first one above memory, fits FAULT_INFO. -/
theorem toNat_info_of_memTrap (s : State) :
    (BitVec.ofNat 16 (max (dataBase s) 0x1000)).toNat = max (dataBase s) 0x1000 := by
  have hi : dataBase s < 65536 := s.i.isLt
  rw [BitVec.toNat_ofNat, Nat.mod_eq_of_lt (by omega)]

/-- The highest cell that a sprite can ask for fits FAULT_INFO. -/
theorem lt_of_mem_drawCells {s : State} {x y : RegNum} {n : Fin 16} {k : Nat}
    (hk : k ∈ drawCells (drawBase s x y) n.val) : k < 65536 := by
  obtain ⟨r, hr, c, hc, rfl⟩ := mem_drawCells.mp hk
  have hx := (s.reg x).isLt
  have hy := (s.reg y).isLt
  simp only [drawBase]
  omega

/-- Settles O13: the trap of each operation, its FAULT_INFO read as a number. -/
theorem faultCausesByOperation : Obligations.FaultCausesByOperation := by
  intro i s t hs h ht
  obtain ⟨e, he, rfl⟩ := exec_faulted hs h ht
  cases i <;> dsimp only [Raises] at he
  case invalid w => subst he; exact .inl ⟨rfl, w, rfl, rfl⟩
  case ret => obtain ⟨hsp, rfl⟩ := he; exact .inr (.inl ⟨rfl, rfl, hsp, rfl⟩)
  case call => obtain ⟨hsp, rfl⟩ := he; exact .inr (.inr (.inl ⟨rfl, rfl, hsp, rfl⟩))
  case ldBVx x m =>
    obtain ⟨-, hgt, rfl⟩ := he
    refine .inr (.inr (.inr (.inl ⟨rfl, toNat_info_of_memTrap s, .inr (.inl ⟨x, m, rfl, ?_⟩)⟩)))
    exact Nat.lt_of_succ_lt_succ hgt
  case ldMemVx x =>
    obtain ⟨-, hgt, rfl⟩ := he
    refine .inr (.inr (.inr (.inl ⟨rfl, toNat_info_of_memTrap s, .inr (.inr (.inl ⟨x, rfl, ?_⟩))⟩)))
    exact Nat.lt_of_succ_lt_succ hgt
  case ldVxMem x =>
    obtain ⟨-, hgt, rfl⟩ := he
    refine .inr (.inr (.inr (.inl ⟨rfl, toNat_info_of_memTrap s, .inr (.inr (.inr ⟨x, rfl, ?_⟩))⟩)))
    exact Nat.lt_of_succ_lt_succ hgt
  case drw x y n =>
    obtain ⟨hn, hgt, rfl⟩ | ⟨hfits, k, hk, hgt, hmin, rfl⟩ := he
    · refine .inr (.inr (.inr (.inl ⟨rfl, toNat_info_of_memTrap s, .inl ⟨x, y, n, rfl, hn, ?_⟩⟩)))
      have hgt' : 0x1000 < dataBase s + n.val := hgt
      omega
    · have hinfo : (BitVec.ofNat 16 k).toNat = k :=
        Nat.mod_eq_of_lt (lt_of_mem_drawCells (s := s.advance) hk)
      obtain ⟨r, hr, c, hc, hkrc⟩ := mem_drawCells.mp hk
      refine .inr (.inr (.inr (.inr (.inl ⟨rfl, x, y, n, rfl, hfits, ⟨r, c, hr, hc, ?_⟩, ?_, ?_⟩))))
      · exact hinfo.trans hkrc
      · exact hgt.trans_eq hinfo.symm
      · intro r' c' hr' hc' hlt
        exact hinfo.trans_le (hmin _ (mem_drawCells.mpr ⟨r', hr', c', hc', rfl⟩) hlt)
  case skp x m =>
    obtain ⟨hgt, rfl⟩ := he
    exact .inr (.inr (.inr (.inr (.inr (.inl ⟨rfl, x, m, .inl rfl, hgt, toNat_zext16 _⟩)))))
  case sknp x m =>
    obtain ⟨hgt, rfl⟩ := he
    exact .inr (.inr (.inr (.inr (.inr (.inl ⟨rfl, x, m, .inr rfl, hgt, toNat_zext16 _⟩)))))
  case ldFVx x m =>
    obtain ⟨hgt, rfl⟩ := he
    exact .inr (.inr (.inr (.inr (.inr (.inr ⟨rfl, x, m, rfl, hgt, toNat_zext16 _⟩)))))

end Sys2Proof.Machine
end

section
/-!
SUPPORT. The step and the other actions as a whole: what a step can do in each status, the bound of PC (10_state.md
R27), the invariant of the state along every action and every run (60_exceptions.md R232), and the good end
(70_reset_and_hazards.md R270).
-/

namespace Sys2Proof.Machine

/-! ### The step by its cases -/

/-- What a step can do (60_exceptions.md R238). -/
theorem step_cases {s t : State} (h : step s = .next t) :
    (s.status = .run ∧ s.pc.toNat ≤ 0xFFE ∧ ∃ i, exec i s = .next t) ∨
    (s.status = .run ∧ t = takeFetchFault s) ∨
    (s.status = .waitKey ∧ t = waitComplete s) ∨
    (s.status = .faulted ∧ t = s) := by
  cases hs : s.status
  case run =>
    obtain hpc | hpc := le_or_gt s.pc.toNat 0xFFE
    · exact .inl ⟨rfl, hpc, _, (step_fetched hs (fetch_some hpc)).symm.trans h⟩
    · rw [step_unfetched hs (fetch_none hpc)] at h
      cases h
      exact .inr (.inl ⟨rfl, rfl⟩)
  case waitKey =>
    rw [step_waiting hs] at h
    cases h
    exact .inr (.inr (.inl ⟨rfl, rfl⟩))
  case faulted =>
    rw [step_faulted hs] at h
    cases h
    exact .inr (.inr (.inr ⟨rfl, rfl⟩))

/-- What the re-examination of a wait can do (45_keypad.md R203). -/
theorem waitComplete_cases (s : State) :
    (waitComplete s = s ∧ (s.status = .waitKey → ∀ k : RegNum, s.key[k] = false)) ∨
    (s.status = .waitKey ∧ ∃ k, waitComplete s = { s.setReg s.waitX (keyByte k) with status := .run }) := by
  by_cases hs : s.status = .waitKey
  case neg => exact .inl ⟨waitComplete_not_waiting hs, fun hw => absurd hw hs⟩
  case pos =>
    cases hk : lowestKey s with
    | none =>
      have hkeys := lowestKey_none.mp hk
      exact .inl ⟨waitComplete_none hkeys, fun _ => hkeys⟩
    | some k =>
      obtain ⟨hdown, hmin⟩ := lowestKey_some.mp hk
      exact .inr ⟨hs, k, waitComplete_some hs hdown hmin⟩

theorem waitComplete_pc (s : State) : (waitComplete s).pc = s.pc := by
  obtain ⟨h, -⟩ | ⟨-, k, h⟩ := waitComplete_cases s
  · rw [h]
  · rw [h]; rfl

/-! ### The bound of PC -/

/-- The exact target of JP V0 (40_control_flow.md R114). -/
theorem toNat_addrOf_add_zext16 (nnn : Imm12) (b : Byte) : (addrOf nnn + zext16 b).toNat = nnn.toNat + b.toNat := by
  have hnnn : nnn.toNat < 4096 := nnn.isLt
  have hb : b.toNat < 256 := b.isLt
  rw [BitVec.toNat_add, toNat_addrOf, toNat_zext16, Nat.mod_eq_of_lt (by omega)]

theorem toNat_add_two {p : Word} (h : p.toNat ≤ 0x1000) : (p + 2).toNat = p.toNat + 2 := by
  exact (BitVec.toNat_add p 2).trans (Nat.mod_eq_of_lt (show p.toNat + 2 < 65536 by omega))

theorem toNat_skipIf_pc_le {t : State} (c : Bool) (ht : t.pc.toNat ≤ 0x1000) : (t.skipIf c).pc.toNat ≤ 0x10FE := by
  cases c
  · exact ht.trans (by decide)
  · have hpc : (t.skipIf true).pc.toNat = t.pc.toNat + 2 := toNat_add_two ht
    omega

/-- From a PC of at most 0x1000, the largest PC is the largest target of JP V0 (10_state.md R27). -/
theorem bodyOf_pc_le {i : Instr} {t u : State} (h : bodyOf i t = .ok u) (ht : t.pc.toNat ≤ 0x1000)
    (hstack : ∀ j : Fin 16, t.stack[j].toNat ≤ 0x1000) : u.pc.toNat ≤ 0x10FE := by
  have hframe := bodyOf_frame h
  have hkept : u.pc = t.pc → u.pc.toNat ≤ 0x10FE := fun hpc => hpc ▸ ht.trans (by decide)
  cases i
  case jp nnn => cases h; exact (addrOf_le nnn).trans (by decide)
  case jpV0 nnn =>
    cases h
    have hnnn : nnn.toNat < 4096 := nnn.isLt
    have hb : (t.reg 0).toNat < 256 := (t.reg 0).isLt
    rw [setPc_pc, toNat_addrOf_add_zext16]
    omega
  case call nnn =>
    dsimp only [bodyOf] at h
    obtain ⟨_, hu⟩ := pushThen_eq_ok h
    cases hu
    exact (addrOf_le nnn).trans (by decide)
  case ret =>
    dsimp only [bodyOf] at h
    obtain ⟨hs, hu⟩ := popThen_eq_ok h
    cases hu
    exact (hstack ⟨t.sp.val - 1, by omega⟩).trans (by decide)
  case seImm | sneImm | seReg | sneReg => cases h; exact toNat_skipIf_pc_le _ ht
  case skp | sknp =>
    dsimp only [bodyOf] at h
    obtain ⟨_, hu⟩ := withKeyLine_eq_ok h
    cases hu
    exact toNat_skipIf_pc_le _ ht
  all_goals exact hkept (hframe.pc (by simp [Instr.op]))

/-- Settles O11: a step that executes starts from a word that exists, and every other step keeps PC. -/
theorem pcNeverWraps : Obligations.PcNeverWraps := by
  intro s t hpc hstack h
  obtain ⟨-, hle, i, hi⟩ | ⟨-, rfl⟩ | ⟨-, rfl⟩ | ⟨-, rfl⟩ := step_cases h
  · obtain ⟨u, hu, rfl⟩ | ⟨e, -, rfl⟩ := exec_cases hi
    · have hadv : s.advance.pc.toNat ≤ 0x1000 := by
        rw [advance_pc, toNat_add_two (by omega)]; omega
      exact (bodyOf_pc_le hu hadv hstack :)
    · exact hpc
  · exact hpc
  · rwa [waitComplete_pc]
  · exact hpc

/-! ### The invariant -/

/-- Settles O57: nothing is listed in memory, the timers are at 0, the core runs and every slot is 0. -/
theorem resetMeetsTheInvariant : Obligations.ResetMeetsTheInvariant := by
  have hreset (font : Config.Font) : (State.resetWith font).Inv := by
    refine ⟨Memory.wf_nil font, fun _ => rfl, fun _ => rfl, ?_, ?_, ?_⟩ <;> simp [State.resetWith]
  exact ⟨hreset conventionalFont, hreset⟩

/-- A fault stops the core with a fault's cause and leaves the rest of the state (60_exceptions.md R226). -/
theorem inv_takeFault {s : State} (hs : s.Inv) {e : Trap} (he : e.cause ≠ .none) (a w : Word) :
    (takeFault e a w s).Inv := by
  obtain ⟨hmem, hdt, hst, -, -, hstack⟩ := hs
  exact ⟨hmem, hdt, hst, by simp [he], by simp, hstack⟩

/-- An instruction that has been fetched keeps the invariant. -/
theorem exec_inv {i : Instr} {s t : State} (hs : s.status = .run) (hpc : s.pc.toNat ≤ 0xFFE) (hinv : s.Inv)
    (h : exec i s = .next t) : t.Inv := by
  obtain ⟨u, hu, rfl⟩ | ⟨e, he, rfl⟩ := exec_cases h
  case inr => exact inv_takeFault hinv (bodyOf_raises he).cause_ne_none s.pc (encode i)
  case inl =>
    obtain ⟨hmem, hdt, hst, hfault, -, hstack⟩ := hinv
    have hframe := bodyOf_frame hu
    have hcause : u.faultCause = .none := hframe.faultRegisters.1.trans (by simpa [hs] using hfault)
    refine ⟨(bodyOf_mem_wf hu hmem :), ?delay, ?sound, ?fault, ?keys, ?stack⟩
    case delay =>
      by_cases hop : i.op = .LD_DT_VX
      · cases i <;> cases hop
        cases hu
        simp
      · obtain ⟨hcount, hidle⟩ := hframe.delay hop
        simpa [hcount, hidle] using hdt
    case sound =>
      by_cases hop : i.op = .LD_ST_VX
      · cases i <;> cases hop
        cases hu
        simp
      · obtain ⟨hcount, hidle⟩ := hframe.soundTimer hop
        simpa [hcount, hidle] using hst
    case fault => simpa [hcause] using (bodyOf_status_ne_faulted hu hs :)
    case keys =>
      intro hwait
      obtain hkept | ⟨-, -, hkeys⟩ := bodyOf_status hu
      · cases hs.symm.trans (hkept.symm.trans hwait)
      · exact hkeys
    case stack =>
      intro j
      obtain hkept | hpushed := bodyOf_stack hu j
      · exact hkept ▸ hstack j
      · have hret : u.stack[j].toNat = s.pc.toNat + 2 := by rw [hpushed, advance_pc, toNat_add_two (by omega)]
        exact hret.trans_le (by omega)

/-- The re-examination of a wait re-establishes the clause on the key lines, whatever they were before
(45_keypad.md R203). -/
theorem waitComplete_inv {s : State} (key : Vector Bool 16) (h : ({ s with key := key } : State).Inv) :
    (waitComplete s).Inv := by
  obtain ⟨hmem, hdt, hst, hfault, -, hstack⟩ := h
  obtain ⟨heq, hkeys⟩ | ⟨hwait, k, heq⟩ := waitComplete_cases s
  · rw [heq]
    exact ⟨hmem, hdt, hst, hfault, hkeys, hstack⟩
  · rw [heq]
    have hcause : s.faultCause = .none := by simpa [hwait] using hfault
    exact ⟨hmem, hdt, hst, by simp [hcause], by simp, hstack⟩

/-- Settles O58: by the cases of a step. -/
theorem stepKeepsTheInvariant : Obligations.StepKeepsTheInvariant := by
  intro s t hinv h
  obtain ⟨hs, hpc, i, hi⟩ | ⟨-, rfl⟩ | ⟨-, rfl⟩ | ⟨-, rfl⟩ := step_cases h
  · exact exec_inv hs hpc hinv hi
  · exact inv_takeFault hinv (by simp) _ _
  · exact waitComplete_inv s.key hinv
  · exact hinv

theorem resume_inv {s : State} (p : Word) (h : s.Inv) : (resume p s).Inv := by
  obtain ⟨hmem, hdt, hst, hfault, hkeys, hstack⟩ := h
  by_cases hs : s.status = .faulted
  · rw [resume_faulted hs]
    exact ⟨hmem, hdt, hst, by simp, by simp, hstack⟩
  · rw [resume_other hs]
    exact ⟨hmem, hdt, hst, hfault, hkeys, hstack⟩

/-- An idle timer stays at 0 (60_exceptions.md R233). -/
theorem tick_inv {s : State} (h : s.Inv) : (tick s).Inv := by
  obtain ⟨hmem, hdt, hst, hfault, hkeys, hstack⟩ := h
  refine ⟨hmem, fun hidle => ?_, fun hidle => ?_, hfault, hkeys, hstack⟩
  · simp [hdt hidle, countDown]
  · simp [hst hidle, countDown]

/-- Every action of an agent keeps the invariant. -/
theorem act_inv {a : PortAction} {s t : State} (hinv : s.Inv) (h : act a s = .next t) : t.Inv := by
  cases a
  case step => exact stepKeepsTheInvariant s t hinv h
  all_goals cases h
  case reset => exact resetMeetsTheInvariant.2 s.mem.font
  case load a b =>
    obtain ⟨hmem, hrest⟩ := hinv
    exact ⟨Memory.wf_write hmem a b, hrest⟩
  case keySet | keyClear | keyToggle => exact waitComplete_inv s.key hinv
  case fbRead | statusRead => exact hinv
  case resume p => exact resume_inv p hinv
  case tick => exact tick_inv hinv

/-- Settles O59: by induction on the list of actions. -/
theorem allInterleavingsKeepTheInvariant : Obligations.AllInterleavingsKeepTheInvariant := by
  intro as
  induction as with
  | nil => rintro s _ hinv ⟨⟩; exact hinv
  | cons a as ih =>
    intro s t hinv h
    obtain ⟨u, hu⟩ := act_next a s
    rw [runActions, hu] at h
    exact ih u t (act_inv hinv hu) h

/-! ### The good end -/

/-- At a good end the core runs, and the word fetched is a jump to PC (70_reset_and_hazards.md R270). -/
theorem endsWell_iff (s : State) : s.endsWell = true ↔
    s.status = .run ∧ ∃ w, fetch s = some w ∧ nib3 w = 0x1 ∧ addrOf (immNNN w) = s.pc := by
  unfold State.endsWell
  cases fetch s <;> simp

/-- The high nibble 1 alone selects JP, in a word given as a whole (30_encoding.md R82). -/
theorem decode_of_nib3_one {w : Word} (h : nib3 w = 0x1) : decode w = .jp (immNNN w) := by
  rw [← decode_wordNNN_jp, ← h, wordNNN_fields]

/-- Settles O60: the step is the jump to PC itself, and nothing a good end looks at has changed. -/
theorem goodEndIsStable : Obligations.GoodEndIsStable := by
  intro s h
  obtain ⟨hs, w, hw, hnib, hself⟩ := (endsWell_iff s).mp h
  refine ⟨{ s with tag := opTag .JP, tagHeld := true }, ?_, rfl, h⟩
  rw [step_fetched hs hw, decode_of_nib3_one hnib, exec_jp, hself]
  rfl

end Sys2Proof.Machine
end

section
/-!
SUPPORT. Loads, arithmetic and logic (42_load_alu.md): the two forms in which a body ends, one register written or VF
and then a register, with their frames, and the results as numbers; from these the statements on the register operations.
-/

namespace Sys2Proof.Machine

section
variable {i : Instr} {s : State} {x : RegNum} {f b : Byte}

/-! ### The two forms of a result -/

/-- A body that ends in the write of one register (10_state.md R21). -/
theorem exec_setReg (h : bodyOf i s.advance = .ok (s.advance.setReg x b)) :
    ∃ t, exec i s = .next t ∧ t.v[x] = b ∧ OtherRegs [x] s t ∧ OnlyRegs s t :=
  ⟨_, exec_ok h, v_advance_setReg_setTag_self s x b _, otherRegs_advance_setReg_setTag s x b _,
    onlyRegs_advance_setReg_setTag s x b _⟩

/-- A body that ends in the write of VF and then of a register, which stays where it is VF (10_state.md R23). -/
theorem exec_setFlagThenReg (h : bodyOf i s.advance = .ok (s.advance.setFlagThenReg f x b)) :
    ∃ t, exec i s = .next t ∧ t.v[x] = b ∧ (x ≠ vf → t.v[vf] = f) ∧ OtherRegs [x, vf] s t ∧ OnlyRegs s t := by
  refine ⟨_, exec_ok h, reg_setReg_self _ x b, fun hx => ?flag, fun r hr => ?others, rfl⟩
  case flag =>
    refine (reg_setFlagThenReg s.advance f x vf b).trans ?_
    rw [if_neg hx, if_pos rfl]
  case others =>
    obtain ⟨hrx, hrf⟩ : r ≠ x ∧ r ≠ vf := by simpa using hr
    exact v_setFlagThenReg_of_ne s.advance f b (by simp [hrx, hrf])

end

/-! ### Flags and shifts as numbers -/

theorem toNat_flag (p : Prop) [Decidable p] : (flag (decide p)).toNat = if p then 1 else 0 := by
  by_cases hp : p <;> simp [flag, hp]

/-- The difference mod 256, without a borrow out of the naturals (42_load_alu.md R148, R150). -/
theorem toNat_sub_byte (a b : Byte) : (a - b).toNat = (a.toNat + 256 - b.toNat) % 256 := by
  have hb : b.toNat < 256 := b.isLt
  rw [BitVec.toNat_sub]
  omega

theorem toNat_shr_one (a : Byte) : (a >>> 1).toNat = a.toNat / 2 := by
  rw [BitVec.toNat_ushiftRight, Nat.shiftRight_eq_div_pow, pow_one]

theorem toNat_shrFlag (a : Byte) : (shrFlag a).toNat = a.toNat % 2 :=
  (BitVec.toNat_and a 1).trans (Nat.and_one_is_mod a.toNat)

theorem toNat_shl_one (a : Byte) : (a <<< 1).toNat = a.toNat * 2 % 256 := by
  rw [BitVec.toNat_shiftLeft, Nat.shiftLeft_eq, pow_one]

theorem toNat_shlFlag (a : Byte) : (shlFlag a).toNat = a.toNat / 128 :=
  (BitVec.toNat_ushiftRight a 7).trans (Nat.shiftRight_eq_div_pow a.toNat 7)

/-! ### The statements -/

/-- Settles O28: one register written with the sum of two bytes. -/
theorem addImmAddsWithoutFlag : Obligations.AddImmAddsWithoutFlag := by
  refine ⟨fun x kk => decode_encode (.addImm x kk) rfl, fun x kk s => ?_⟩
  obtain ⟨t, ht, hx, hframe⟩ := exec_setReg (i := .addImm x kk) (s := s) rfl
  exact ⟨t, ht, hx ▸ BitVec.toNat_add _ _, hframe⟩

/-- Settles O29: one register written with the copy, and with the three bitwise results. -/
theorem moveAndLogicOperations : Obligations.MoveAndLogicOperations := by
  refine ⟨fun x y => ⟨decode_encode (.ldReg x y) rfl, decode_encode (.orReg x y) rfl, decode_encode (.andReg x y) rfl,
    decode_encode (.xorReg x y) rfl⟩, fun x y s => ⟨?copy, ?or, ?and, ?xor⟩⟩
  case copy => exact exec_setReg (i := .ldReg x y) rfl
  case or =>
    obtain ⟨t, ht, hx, hframe⟩ := exec_setReg (i := .orReg x y) (s := s) rfl
    exact ⟨t, ht, fun b => hx ▸ BitVec.getLsbD_or, hframe⟩
  case and =>
    obtain ⟨t, ht, hx, hframe⟩ := exec_setReg (i := .andReg x y) (s := s) rfl
    exact ⟨t, ht, fun b => hx ▸ BitVec.getLsbD_and, hframe⟩
  case xor =>
    obtain ⟨t, ht, hx, hframe⟩ := exec_setReg (i := .xorReg x y) (s := s) rfl
    exact ⟨t, ht, fun b => hx ▸ BitVec.getLsbD_xor, hframe⟩

/-- Settles O30: VF written with the carry and then VX with the sum. -/
theorem addRegAddsWithCarry : Obligations.AddRegAddsWithCarry := by
  refine ⟨fun x y => decode_encode (.addReg x y) rfl, fun x y s => ?_⟩
  obtain ⟨t, ht, hx, hf, hframe⟩ := exec_setFlagThenReg (i := .addReg x y) (s := s) rfl
  exact ⟨t, ht, hx ▸ BitVec.toNat_add _ _, fun hne => hf hne ▸ toNat_flag _, hframe⟩

/-- Settles O31: VF written with the absence of a borrow and then VX with the difference, in either direction. -/
theorem subtractWithoutBorrowFlag : Obligations.SubtractWithoutBorrowFlag := by
  refine ⟨fun x y => ⟨decode_encode (.sub x y) rfl, decode_encode (.subn x y) rfl⟩, fun x y s => ⟨?sub, ?subn⟩⟩
  case sub =>
    obtain ⟨t, ht, hx, hf, hframe⟩ := exec_setFlagThenReg (i := .sub x y) (s := s) rfl
    exact ⟨t, ht, hx ▸ toNat_sub_byte _ _, fun hne => hf hne ▸ toNat_flag _, hframe⟩
  case subn =>
    obtain ⟨t, ht, hx, hf, hframe⟩ := exec_setFlagThenReg (i := .subn x y) (s := s) rfl
    exact ⟨t, ht, hx ▸ toNat_sub_byte _ _, fun hne => hf hne ▸ toNat_flag _, hframe⟩

/-- Settles O32: VF written with the bit shifted out and then VX with the rest, from VX alone. -/
theorem shiftsMoveOneBitOut : Obligations.ShiftsMoveOneBitOut := by
  refine ⟨fun x y => ⟨decode_encode (.shr x y) rfl, decode_encode (.shl x y) rfl⟩, fun x y s => ⟨?shr, ?shl⟩⟩
  case shr =>
    obtain ⟨t, ht, hx, hf, hframe⟩ := exec_setFlagThenReg (i := .shr x y) (s := s) rfl
    exact ⟨t, ht, hx ▸ toNat_shr_one _, fun hne => hf hne ▸ toNat_shrFlag _, hframe⟩
  case shl =>
    obtain ⟨t, ht, hx, hf, hframe⟩ := exec_setFlagThenReg (i := .shl x y) (s := s) rfl
    exact ⟨t, ht, hx ▸ toNat_shl_one _, fun hne => hf hne ▸ toNat_shlFlag _, hframe⟩

/-- Settles O33: one register written, in the state whose counter has moved on. -/
theorem rndMasksAFreshByte : Obligations.RndMasksAFreshByte := by
  refine ⟨fun x kk => decode_encode (.rnd x kk) rfl, fun x kk s => ?_⟩
  let drawn : State := { s with draws := s.draws + 1 }
  exact ⟨_, exec_ok (i := .rnd x kk) rfl, v_advance_setReg_setTag_self drawn x _ _, rfl,
    otherRegs_advance_setReg_setTag drawn x _ _, onlyRegs_advance_setReg_setTag drawn x _ _⟩

/-- Settles O50: one register written with the count, which the invariant holds at 0 while the timer is idle. -/
theorem ldDtReadsTheCount : Obligations.LdDtReadsTheCount := by
  refine ⟨fun x m => decode_encode (.ldVxDt x m) rfl, fun x m s => ?_⟩
  obtain ⟨t, ht, hx, hframe⟩ := exec_setReg (i := .ldVxDt x m) (s := s) rfl
  refine ⟨t, ht, hx, ?_, hframe⟩
  rintro ⟨-, hidle, -⟩ h
  exact hx.trans (hidle h)

end Sys2Proof.Machine
end

section
/-!
SUPPORT. Control flow, invalid words and the index register (40_control_flow.md, 30_encoding.md R92, 43_index_memory.md
R171, R172): the answered states, and from these the statements on SYS, RET, CALL, JP V0, INVALID, ADD I and LD F.
-/

namespace Sys2Proof.Machine

/-- Settles O19: the low nibble of NNN is that of the word, and the body does nothing. -/
theorem sysHasNoEffect : Obligations.SysHasNoEffect := by
  refine ⟨fun nnn h0 hE => ?_, fun nnn s => exec_ok (i := .sys nnn) rfl⟩
  have hlow : (nnn.extractLsb' 0 4).toNat = nnn.toNat % 16 := by simp
  refine decode_wordNNN_sys (fun h => h0 ?_) (fun h => hE ?_)
  · rw [← hlow, h]; rfl
  · rw [← hlow, h]; rfl

/-- Settles O14: the body raises INVALID_OPCODE with the word. -/
theorem invalidOpcodeFaults : Obligations.InvalidOpcodeFaults := fun w _ =>
  exec_error (i := .invalid w) (e := ⟨.invalidOpcode, w⟩) rfl

/-- Settles O24: the target as the sum of two numbers that does not wrap. -/
theorem jpV0AddsV0Exactly : Obligations.JpV0AddsV0Exactly :=
  ⟨fun nnn => decode_encode (.jpV0 nnn) rfl, fun nnn s =>
    ⟨_, exec_ok (i := .jpV0 nnn) (s := s) rfl, toNat_addrOf_add_zext16 nnn _, rfl⟩⟩

/-! ### The return stack -/

theorem bodyOf_ret_of_pos (ign : Byte) {t : State} (h : 0 < t.sp.val) :
    bodyOf (.ret ign) t =
      .ok { t with sp := ⟨t.sp.val - 1, by omega⟩, pc := t.stack[t.sp.val - 1]'(by omega) } :=
  popThen_ok (rest := fun p u => .ok (u.setPc p)) h

theorem bodyOf_ret_of_empty (ign : Byte) {t : State} (h : t.sp.val = 0) :
    bodyOf (.ret ign) t = .error ⟨.stackUnderflow, 0⟩ := by
  dsimp only [bodyOf]
  exact popThen_empty h

theorem bodyOf_call_of_lt (nnn : Imm12) {t : State} (h : t.sp.val < 16) :
    bodyOf (.call nnn) t =
      .ok { t with sp := ⟨t.sp.val + 1, by omega⟩, stack := t.stack.set t.sp.val t.pc, pc := addrOf nnn } :=
  pushThen_ok (rest := fun u => .ok (u.setPc (addrOf nnn))) h

theorem bodyOf_call_of_full (nnn : Imm12) {t : State} (h : t.sp.val = 16) :
    bodyOf (.call nnn) t = .error ⟨.stackOverflow, 16⟩ := by
  dsimp only [bodyOf]
  exact pushThen_full h

/-- Settles O20: the two cases of the pop. -/
theorem retPopsOrUnderflows : Obligations.RetPopsOrUnderflows := by
  refine ⟨fun ign => decode_encode (.ret ign) rfl, fun ign s => ⟨fun h => ?pops, fun h => ?underflows⟩⟩
  case pops =>
    refine ⟨_, exec_ok (bodyOf_ret_of_pos ign (t := s.advance) h), rfl, rfl, rfl, rfl, fun hs hpc => ?fetch,
      fun hslots => ?bound⟩
    case fetch => exact step_faults_above_last_word hs hpc
    case bound => exact hslots ⟨s.sp.val - 1, by omega⟩
  case underflows => exact exec_error (bodyOf_ret_of_empty ign (t := s.advance) h)

/-- Settles O22: the two cases of the push. -/
theorem callPushesOrOverflows : Obligations.CallPushesOrOverflows := by
  refine ⟨fun nnn => decode_encode (.call nnn) rfl, fun nnn s => ⟨fun h => ?pushes, fun h => ?overflows⟩⟩
  case pushes =>
    refine ⟨_, exec_ok (bodyOf_call_of_lt nnn (t := s.advance) h), toNat_addrOf nnn, rfl, ?top,
      fun j hj => ?others, rfl⟩
    case top => simp
    case others => simp [hj.symm]
  case overflows => exact exec_error (bodyOf_call_of_full nnn (t := s.advance) h)

theorem onlyStack_trans {s t u : State} (hst : OnlyStack s t) (htu : OnlyStack t u) : OnlyStack s u :=
  htu.trans (by rw [hst])

/-- Settles O23: the slot that RET pops is the one CALL pushed. -/
theorem callThenRetReturns : Obligations.CallThenRetReturns := by
  intro nnn ign s t hs h
  obtain ⟨t', ht', -, hsp, htop, -, hcall⟩ := (callPushesOrOverflows.2 nnn s).1 hs
  cases ht'.symm.trans h
  obtain ⟨u, hu, husp, -, hupc, hret, -⟩ := (retPopsOrUnderflows.2 ign t).1 (by omega)
  have hslot : t.sp.val - 1 = s.sp.val := by omega
  exact ⟨u, hu, by simpa [hslot, htop] using hupc, Fin.ext (husp.trans hslot), onlyStack_trans hcall hret⟩

/-! ### The index register -/

/-- Settles O35: the sum mod 2^16 of I and VX. -/
theorem addIWraps : Obligations.AddIWraps := by
  refine ⟨fun x m => decode_encode (.addIVx x m) rfl, fun x m s => ⟨_, exec_ok (i := .addIVx x m) rfl, ?sum, rfl⟩⟩
  case sum =>
    refine (BitVec.toNat_add s.i (zext16 s.v[x])).trans ?_
    rw [toNat_zext16]

theorem zext16_eq_ofNat (b : Byte) : zext16 b = BitVec.ofNat 16 b.toNat :=
  BitVec.eq_of_toNat_eq ((toNat_zext16 b).trans (Nat.mod_eq_of_lt (b.isLt.trans (by decide))).symm)

/-- Settles O36: a digit has a glyph, any other byte faults. -/
theorem ldFPointsAtGlyph : Obligations.LdFPointsAtGlyph :=
  ⟨fun x m => decode_encode (.ldFVx x m) rfl, fun _ m _ =>
    ⟨fun h => ⟨_, exec_ldFVx_digit m h, toNat_five_mul_zext16 _, rfl⟩,
      fun h => zext16_eq_ofNat _ ▸ exec_ldFVx_no_digit m h⟩⟩

end Sys2Proof.Machine
end

section
/-!
SUPPORT. Keys and timers (45_keypad.md, 46_timers.md, 60_exceptions.md R233, R234, R239): the answered states of the key
skips and of the key wait, the key actions, and the count of a tick; from these the statements on them.
-/

namespace Sys2Proof.Machine

/-! ### The key skips -/

/-- A skip of the body that went on after the fetch's advance (41_conditional_skip.md R130). -/
theorem exec_skip {i : Instr} {s : State} {c : Bool} (h : bodyOf i s.advance = .ok (s.advance.skipIf c)) :
    ∃ t, exec i s = .next t ∧ t.pc = (if c then s.pc + 4 else s.pc + 2) ∧ OnlyPc s t :=
  ⟨_, exec_ok h, pc_advance_skipIf s c, onlyPc_advance_skipIf_setTag s c _⟩

theorem bodyOf_skp_of_lt {x : RegNum} (m : Nibble) {t : State} (h : (t.v[x]).toNat < 16) :
    bodyOf (.skp x m) t = .ok (t.skipIf (t.keyLine ⟨(t.v[x]).toNat, h⟩)) :=
  withKeyLine_of_lt (rest := fun down u => .ok (u.skipIf down)) h

theorem bodyOf_skp_of_gt {x : RegNum} (m : Nibble) {t : State} (h : 0xF < (t.v[x]).toNat) :
    bodyOf (.skp x m) t = .error ⟨.keyOutOfRange, BitVec.ofNat 16 (t.v[x]).toNat⟩ := by
  dsimp only [bodyOf]
  exact (withKeyLine_of_gt h).trans (by rw [zext16_eq_ofNat])

theorem bodyOf_sknp_of_lt {x : RegNum} (m : Nibble) {t : State} (h : (t.v[x]).toNat < 16) :
    bodyOf (.sknp x m) t = .ok (t.skipIf (!t.keyLine ⟨(t.v[x]).toNat, h⟩)) :=
  withKeyLine_of_lt (rest := fun down u => .ok (u.skipIf (!down))) h

theorem bodyOf_sknp_of_gt {x : RegNum} (m : Nibble) {t : State} (h : 0xF < (t.v[x]).toNat) :
    bodyOf (.sknp x m) t = .error ⟨.keyOutOfRange, BitVec.ofNat 16 (t.v[x]).toNat⟩ := by
  dsimp only [bodyOf]
  exact (withKeyLine_of_gt h).trans (by rw [zext16_eq_ofNat])

/-- Settles O47: SKP and SKNP look at the line VX names, and fault where it names none. -/
theorem keySkips : Obligations.KeySkips := by
  refine ⟨fun x m => ⟨decode_encode (.skp x m) rfl, decode_encode (.sknp x m) rfl⟩, fun x m s => ⟨fun h => ?line,
    fun h => ⟨exec_error (bodyOf_skp_of_gt (t := s.advance) m h), exec_error (bodyOf_sknp_of_gt (t := s.advance) m h)⟩⟩⟩
  case line =>
    have hlt : (s.v[x]).toNat < 16 := by omega
    refine ⟨exec_skip (bodyOf_skp_of_lt (t := s.advance) m hlt), ?sknp⟩
    case sknp =>
      obtain ⟨t, ht, hpc, hframe⟩ := exec_skip (bodyOf_sknp_of_lt (t := s.advance) m hlt)
      refine ⟨t, ht, hpc.trans ?_, hframe⟩
      have hflip (c : Bool) : (if (!c) = true then s.pc + 4 else s.pc + 2) = if c then s.pc + 2 else s.pc + 4 := by
        cases c <;> rfl
      exact hflip _

/-! ### The key wait -/

theorem toNat_keyByte (k : RegNum) : (keyByte k).toNat = k.val :=
  (BitVec.toNat_ofNat k.val 8).trans (Nat.mod_eq_of_lt (show k.val < 256 by omega))

/-- LD Vx, K with a key line at 1 (45_keypad.md R203). -/
theorem bodyOf_ldVxK_down {x k : RegNum} {m : Nibble} {t : State} (h : t.key[k] = true)
    (hmin : ∀ j : RegNum, j < k → t.key[j] = false) :
    bodyOf (.ldVxK x m) t = .ok (t.setReg x (keyByte k)) := by
  dsimp only [bodyOf]
  rw [lowestKey_some.mpr ⟨h, hmin⟩]

/-- LD Vx, K with no key line at 1 (45_keypad.md R203). -/
theorem bodyOf_ldVxK_up {x : RegNum} {m : Nibble} {t : State} (h : ∀ k : RegNum, t.key[k] = false) :
    bodyOf (.ldVxK x m) t = .ok { t with waitX := x, status := .waitKey } := by
  dsimp only [bodyOf]
  rw [lowestKey_none.mpr h]

/-- Settles O48: the two cases of the lowest key line. -/
theorem ldKeyCompletesOrHolds : Obligations.LdKeyCompletesOrHolds := by
  refine ⟨fun x m => decode_encode (.ldVxK x m) rfl, fun x m s => ⟨fun k h hmin => ?completes, fun h => ?holds⟩⟩
  case completes =>
    obtain ⟨t, ht, hx, hframe⟩ := exec_setReg (s := s) (bodyOf_ldVxK_down (m := m) (t := s.advance) h hmin)
    exact ⟨t, ht, hx ▸ toNat_keyByte k, hframe⟩
  case holds => exact exec_ok (bodyOf_ldVxK_up (t := s.advance) h)

/-- A key action sets its line and re-examines the wait (60_exceptions.md R239). -/
theorem act_key {k : RegNum} {s : State} {a : PortAction} {b : Bool}
    (ha : a = .keySet k ∧ b = true ∨ a = .keyClear k ∧ b = false ∨ a = .keyToggle k ∧ b = !s.key[k]) :
    act a s = .next (waitComplete (s.setKey k b)) := by
  obtain ⟨rfl, rfl⟩ | ⟨rfl, rfl⟩ | ⟨rfl, rfl⟩ := ha <;> rfl

/-- Settles O49: the cases of the re-examined wait. -/
theorem keyActionsCompleteTheWait : Obligations.KeyActionsCompleteTheWait := by
  intro k s a b ha
  rw [act_key ha]
  refine ⟨fun hs => ?running, fun _ hkeys => ?still, fun hs j hj hmin => ?completes⟩
  case running => rw [waitComplete_not_waiting (s := s.setKey k b) hs]; rfl
  case still => rw [waitComplete_none (s := s.setKey k b) hkeys]; rfl
  case completes => rw [waitComplete_some (s := s.setKey k b) hs hj hmin]; rfl

/-! ### Timers -/

/-- A count of 0 stays, any other goes down by one (60_exceptions.md R233). -/
theorem toNat_countDown (c : Byte) : (countDown c).toNat = c.toNat - 1 := by
  unfold countDown
  split
  · next h => simp [h]
  · next h =>
    have hpos : c.toNat ≠ 0 := fun h0 => h (BitVec.eq_of_toNat_eq h0)
    have hc : c.toNat < 256 := c.isLt
    refine (toNat_sub_byte c 1).trans ?_
    have hone : (1 : Byte).toNat = 1 := rfl
    omega

/-- The sound signal (60_exceptions.md R234). -/
theorem sound_iff (s : State) : sound s = true ↔ s.st ≠ 0 := by simp [sound]

/-- Settles O52: both counts by `countDown`, and the frame by definition. -/
theorem tickCountsDown : Obligations.TickCountsDown := by
  refine fun s => ⟨⟨tick s, rfl, toNat_countDown s.dt, toNat_countDown s.st, rfl⟩, (sound_iff s).trans ?_⟩
  exact not_congr BitVec.toNat_inj.symm

end Sys2Proof.Machine
end

section
/-!
SUPPORT. The step's fetch and the host's ports (30_encoding.md R95, 60_exceptions.md R236 to R243,
70_reset_and_hazards.md R260): the statements on the step by status, on LOAD and RESUME, on the read ports and on RESET.
-/

namespace Sys2Proof.Machine

/-- Settles O6: the word at PC is that of the two bytes at PC, where both exist. -/
theorem stepFetchesDecodesExecutes : Obligations.StepFetchesDecodesExecutes := by
  refine fun s hs => ⟨fun hpc i hi => ?_, fun hpc => step_unfetched hs (fetch_none hpc)⟩
  subst hi
  exact step_fetched hs (fetch_some hpc)

/-- Settles O7: the step in each status, and in WAIT_KEY by the lowest key line. -/
theorem stepPortByStatus : Obligations.StepPortByStatus := by
  refine fun s => ⟨fun hs => ?run, fun hs k hk hmin => ?completes, fun hs hkeys => ?holds, step_faulted⟩
  case run =>
    change step s = _
    cases hf : fetch s with
    | some w => exact step_fetched hs hf
    | none => exact step_unfetched hs hf
  case completes =>
    refine (step_waiting hs).trans ?_
    rw [waitComplete_some hs hk hmin]
    rfl
  case holds =>
    refine (step_waiting hs).trans ?_
    rw [waitComplete_none hkeys]

/-! ### Ports -/

theorem Memory.write_of_gt (m : Memory) {a : Nat} (b : Byte) (h : 0xFFF < a) : m.write a b = m := if_pos h

/-- Settles O53: LOAD is one write of memory, and RESUME acts by status. -/
theorem loadAndResume : Obligations.LoadAndResume := by
  refine ⟨fun a b s => ⟨fun h => ⟨if_pos h, _, rfl, ?self, fun c hc => ?other, rfl⟩, fun h => ⟨if_neg ?_, ?none⟩⟩,
    fun p s => ⟨fun h => ?resumed, fun h => ?ignored⟩⟩
  case self => exact Memory.read_write_self s.mem b h
  case other => exact Memory.read_write_ne s.mem b hc
  case none =>
    change Host.Outcome.next (loadPort a b s) = _
    rw [loadPort, Memory.write_of_gt s.mem b h]
  case resumed => exact congrArg Host.Outcome.next (resume_faulted h)
  case ignored => exact congrArg Host.Outcome.next (resume_other h)
  · omega

/-- Settles O54: the report is the registers, the two enumerations by their codes. -/
theorem readPortsHaveNoEffect : Obligations.ReadPortsHaveNoEffect := by
  intro s
  refine ⟨fun n => ⟨rfl, rfl⟩, rfl, statusReport s, rfl, ?_⟩
  simp +contextual [statusReport, statusCode, causeCode, sound]

/-- Settles O56: each element of the state that RESET writes. -/
theorem resetGivesEveryValue : Obligations.ResetGivesEveryValue := by
  refine fun s => ⟨resetPort s, rfl, ?_⟩
  have hfb : (State.resetWith s.mem.font).fb = Framebuffer.clear := rfl
  refine ⟨?_, rfl, rfl, rfl, ?_, rfl, rfl, rfl, rfl, ?_, fun n _ => hfb ▸ cell_clear n, fun _ => rfl, rfl, rfl, rfl, rfl,
    rfl, rfl, rfl, rfl, rfl⟩ <;> simp [resetPort, State.resetWith]

end Sys2Proof.Machine
end

section
/-!
SUPPORT. Memory transfers (43_index_memory.md R173 to R176): the bodies of FX33, FX55 and FX65 where every address
exists and where one does not, the bytes stored and loaded, and from these the statements on them.
-/

namespace Sys2Proof.Machine

/-! ### The check of an access -/

section
variable {b n : Nat} {rest : Except Trap State}

theorem checkedAll_span_of_le (h : b + n ≤ 0x1000) : checkedAll 0xFFF .memOutOfRange (span b n) rest = rest :=
  (checkedAll_span _ b n rest).trans (if_pos (.inr h))

theorem checkedAll_span_of_gt (hn : n ≠ 0) (h : 0x1000 < b + n) :
    checkedAll 0xFFF .memOutOfRange (span b n) rest = .error ⟨.memOutOfRange, BitVec.ofNat 16 (max b 0x1000)⟩ :=
  (checkedAll_span _ b n rest).trans (if_neg (by omega))

end

/-! ### FX33 -/

/-- The digits of a byte as numbers (43_index_memory.md R173). -/
theorem toNat_digits (a : Byte) : (a / 100).toNat = a.toNat / 100 ∧ (a / 10 % 10).toNat = a.toNat / 10 % 10 ∧
    (a % 10).toNat = a.toNat % 10 := by
  refine ⟨BitVec.toNat_udiv, ?_, BitVec.toNat_umod⟩
  exact BitVec.toNat_umod.trans (congrArg (· % 10) BitVec.toNat_udiv)

/-- Settles O37: the digits stored where the three addresses exist, and the fault where one does not. -/
theorem ldBStoresDecimalDigits : Obligations.LdBStoresDecimalDigits := by
  refine ⟨fun x m => decode_encode (.ldBVx x m) rfl, fun x m s => ⟨fun h => ?stores, fun h => ?faults⟩⟩
  case stores =>
    have hfits : dataBase s + 3 ≤ 0x1000 := by omega
    obtain ⟨hundreds, tens, ones⟩ := toNat_digits s.v[x]
    have hread := Memory.read_writeDigits s.mem s.v[x] (h := hfits)
    refine ⟨_, exec_ok (i := .ldBVx x m) (s := s) (checkedAll_span_of_le hfits), ?_, ?_, ?_, fun a ha => ?_, rfl⟩
    · exact (congrArg BitVec.toNat ((hread _).trans (by simp))).trans hundreds
    · exact (congrArg BitVec.toNat ((hread _).trans (by simp))).trans tens
    · exact (congrArg BitVec.toNat ((hread _).trans (by simp))).trans ones
    · exact (hread a).trans (by rw [if_neg (by omega), if_neg (by omega), if_neg (by omega)]; rfl)
  case faults =>
    exact exec_error (i := .ldBVx x m) (e := ⟨.memOutOfRange, _⟩)
      (checkedAll_span_of_gt (by simp) (by omega : 0x1000 < dataBase s + 3))

/-! ### FX55 -/

/-- Byte j of the registers stored is Vj (43_index_memory.md R174). -/
theorem read_writeList_regsUpTo (s : State) {x j : RegNum} (h : dataBase s + (x.val + 1) ≤ 0x1000) (hj : j ≤ x) :
    (s.mem.writeList (dataBase s) (regsUpTo s x)).read (dataBase s + j.val) = s.v[j] := by
  rw [Memory.read_writeList _ _ _ _ (by rwa [length_regsUpTo]), if_pos (Nat.le_add_right _ _), Nat.add_sub_cancel_left,
    getElem?_regsUpTo s x j hj]
  rfl

/-- Settles O38: the registers stored where every address exists, and the fault where one does not. -/
theorem ldMemStoresRegisters : Obligations.LdMemStoresRegisters := by
  refine ⟨fun x => decode_encode (.ldMemVx x) rfl, fun x s => ⟨fun h => ?stores, fun h => ?faults⟩⟩
  case stores =>
    have hfits : dataBase s + (x.val + 1) ≤ 0x1000 := by omega
    have hlen := length_regsUpTo s x
    refine ⟨_, exec_ok (i := .ldMemVx x) (s := s) (checkedAll_span_of_le hfits), fun j hj => ?_, fun a ha => ?_, rfl⟩
    · exact read_writeList_regsUpTo s hfits hj
    · exact Memory.read_writeList_outside s.mem (a := dataBase s) (regsUpTo s x) (by omega) (by omega)
  case faults =>
    exact exec_error (i := .ldMemVx x) (e := ⟨.memOutOfRange, _⟩)
      (checkedAll_span_of_gt (by simp) (by omega : 0x1000 < dataBase s + (x.val + 1)))

/-- An FX55 that completes: every address existed, and each register is stored. -/
theorem exec_ldMemVx_completed {x : RegNum} {s t : State} (h : exec (.ldMemVx x) s = .next t) (ht : t.status = .run) :
    dataBase s + x.val ≤ 0xFFF ∧ (∀ j : RegNum, j ≤ x → t.readByte (dataBase s + j.val) = s.v[j]) ∧ OnlyMem s t := by
  obtain ⟨hfit, hfault⟩ := ldMemStoresRegisters.2 x s
  obtain hle | hgt := le_or_gt (dataBase s + x.val) 0xFFF
  · obtain ⟨u, hu, hregs, -, hframe⟩ := hfit hle
    cases hu.symm.trans h
    exact ⟨hle, hregs, hframe⟩
  · cases (hfault hgt).symm.trans h
    cases ht

/-! ### FX65 -/

/-- A state that differs from the advanced one in the registers alone, tagged. -/
theorem onlyRegs_setTag {s u : State} (h : u = { s.advance with v := u.v }) (tag : Word) :
    OnlyRegs s (u.setTag tag) := by
  rw [h]
  rfl

/-- Register j of those loaded is byte j (43_index_memory.md R175). -/
theorem v_loadRegs_of_le (s : State) {x j : RegNum} (b : Nat) (hj : j ≤ x) :
    (loadRegs s 0 (s.mem.readList b (x.val + 1))).v[j] = s.readByte (b + j.val) := by
  have hlt : j.val < x.val + 1 := Nat.lt_succ_of_le hj
  rw [loadRegs_get, if_pos (Nat.zero_le _), Memory.getElem?_readList, Nat.sub_zero, if_pos hlt]
  rfl

/-- Settles O39: the registers loaded where every address exists, and the fault where one does not. -/
theorem ldVxMemLoadsRegisters : Obligations.LdVxMemLoadsRegisters := by
  refine ⟨fun x => decode_encode (.ldVxMem x) rfl, fun x s => ⟨fun h => ?loads, fun h => ?faults⟩⟩
  case loads =>
    have hfits : dataBase s + (x.val + 1) ≤ 0x1000 := by omega
    refine ⟨_, exec_ok (i := .ldVxMem x) (s := s) (checkedAll_span_of_le hfits), fun j hj => ?_, fun j hj => ?_, ?_⟩
    · exact v_loadRegs_of_le s.advance (dataBase s) hj
    · exact v_loadRegs_of_gt s.advance _ (Memory.length_readList ..) hj
    · exact onlyRegs_setTag (loadRegs_eq s.advance 0 _) _
  case faults =>
    exact exec_error (i := .ldVxMem x) (e := ⟨.memOutOfRange, _⟩)
      (checkedAll_span_of_gt (by simp) (by omega : 0x1000 < dataBase s + (x.val + 1)))

/-! ### FX55 and what follows it -/

/-- Settles O40: the bytes loaded are the bytes stored, since I is kept. -/
theorem dumpThenLoadRestores : Obligations.DumpThenLoadRestores := by
  intro x s t v' _ h ht
  obtain ⟨hfits, hstored, hframe⟩ := exec_ldMemVx_completed h ht
  have hbase : dataBase { t with v := v' } = dataBase s := (congrArg (fun w : State => w.i.toNat) hframe :)
  obtain ⟨u, hu, hloaded, hkept, -⟩ := (ldVxMemLoadsRegisters.2 x { t with v := v' }).1 (hbase ▸ hfits)
  refine ⟨u, hu, fun j hj => (hloaded j hj).trans ?_, hkept⟩
  rw [hbase]
  exact hstored j hj

/-- Settles O41: the word at the new PC is made of the bytes just stored there. -/
theorem storedWordIsExecutedNext : Obligations.StoredWordIsExecutedNext := by
  intro x s t hs hx hi h ht
  obtain ⟨hfits, hstored, -⟩ := exec_ldMemVx_completed h ht
  have hpc : t.pc = s.pc + 2 :=
    otherInstructionsAdvancePcByTwo _ s t hs h (by simp [ht]) (by simp [Instr.op])
  have hat : t.pc.toNat = dataBase s := by rw [hpc, ← hi]; rfl
  have hfirst : t.readByte t.pc.toNat = s.v[(0 : RegNum)] := by
    rw [hat]; exact hstored 0 (Fin.zero_le x)
  have hsecond : t.readByte (t.pc.toNat + 1) = s.v[(1 : RegNum)] := by
    rw [hat]; exact hstored 1 hx
  rw [← hfirst, ← hsecond]
  exact (stepFetchesDecodesExecutes t ht).1 (by omega) _ rfl

end Sys2Proof.Machine
end

section
/-!
SUPPORT. Drawing (44_display.md R192, R193): the sprite as a predicate on cells, the body of DRW where everything exists
and where something does not, what a completed draw does, and from these the statements on DRW.
-/

namespace Sys2Proof.Machine

section
variable {s t : State} {x y : RegNum} {n : Fin 16}

/-! ### The sprite on the cells -/

/-- A 1 bit of the sprite falls on cell `k` (44_display.md R192). -/
def spriteAt (s : State) (x y : RegNum) (n : Fin 16) (k : Nat) : Bool :=
  decide ((k, true) ∈ drawBits s.mem (dataBase s) (drawBase s x y) n.val)

theorem spriteAt_iff {k : Nat} : spriteAt s x y n k = true ↔
    ∃ r c, r < n.val ∧ c < 8 ∧ k = drawBase s x y + 64 * r + c ∧
      (s.readByte (dataBase s + r)).getLsbD (7 - c) = true := by
  unfold spriteAt
  rw [decide_eq_true_iff, mem_drawBits]
  constructor
  · rintro ⟨r, hr, c, hc, hk, hbit⟩; exact ⟨r, c, hr, hc, hk, hbit⟩
  · rintro ⟨r, c, hr, hc, hk, hbit⟩; exact ⟨r, hr, c, hc, hk, hbit⟩

/-- A claim on the cells under the 1 bits, by row and column. -/
theorem exists_spriteAt {p : Nat → Prop} : (∃ k, spriteAt s x y n k = true ∧ p k) ↔
    ∃ r c, r < n.val ∧ c < 8 ∧ (s.readByte (dataBase s + r)).getLsbD (7 - c) = true ∧
      p (drawBase s x y + 64 * r + c) := by
  constructor
  · rintro ⟨k, hk, hp⟩
    obtain ⟨r, c, hr, hc, rfl, hbit⟩ := spriteAt_iff.mp hk
    exact ⟨r, c, hr, hc, hbit, hp⟩
  · rintro ⟨r, c, hr, hc, hbit, hp⟩
    exact ⟨_, spriteAt_iff.mpr ⟨r, c, hr, hc, rfl, hbit⟩, hp⟩

/-- Rows are 64 cells apart and 8 wide, so each cell is under one bit. -/
theorem spriteAt_cell {r c : Nat} (hr : r < n.val) (hc : c < 8) :
    spriteAt s x y n (drawBase s x y + 64 * r + c) = (s.readByte (dataBase s + r)).getLsbD (7 - c) := by
  rw [Bool.eq_iff_iff, spriteAt_iff]
  constructor
  · rintro ⟨r', c', hr', hc', heq, hbit⟩
    obtain ⟨rfl, rfl⟩ : r = r' ∧ c = c' := by omega
    exact hbit
  · intro hbit
    exact ⟨r, c, hr, hc, rfl, hbit⟩

theorem spriteAt_congr (hmem : t.mem = s.mem) (hi : t.i = s.i) (hbase : drawBase t x y = drawBase s x y) (k : Nat) :
    spriteAt t x y n k = spriteAt s x y n k := by
  have hdata : dataBase t = dataBase s := congrArg BitVec.toNat hi
  simp only [spriteAt, hmem, hdata, hbase]

/-! ### The body of DRW -/

/-- Every sprite address and every cell exists, as the two checks of R192 have it. -/
def DrawFits (s : State) (x y : RegNum) (n : Fin 16) : Prop :=
  (n.val = 0 ∨ dataBase s + n.val ≤ 0x1000) ∧ ∀ k ∈ drawCells (drawBase s x y) n.val, k ≤ 2047

/-- The drawing loop of R192 on the state. -/
def drawnFb (s : State) (x y : RegNum) (n : Fin 16) : Framebuffer × Bool :=
  drawLoop s.fb (drawBits s.mem (dataBase s) (drawBase s x y) n.val)

theorem bodyOf_drw_of_fits (h : DrawFits t x y n) :
    bodyOf (.drw x y n) t =
      .ok ({ t with fb := (drawnFb t x y n).1 }.setReg vf (flag (drawnFb t x y n).2)) := by
  obtain ⟨hmem, hcells⟩ := h
  dsimp only [bodyOf]
  rw [checkedAll_span, if_pos hmem, checkedAll_ok hcells]
  rfl

theorem bodyOf_drw_eq_ok {u : State} (h : bodyOf (.drw x y n) t = .ok u) : DrawFits t x y n := by
  obtain ⟨hmem, hrest⟩ := checkedAll_span_eq_ok h
  exact ⟨hmem, (checkedAll_eq_ok hrest).1⟩

/-- An address beyond memory is found before the cells are looked at (60_exceptions.md R227). -/
theorem bodyOf_drw_of_mem (hn : n.val ≠ 0) (h : 0x1000 < dataBase t + n.val) :
    bodyOf (.drw x y n) t = .error ⟨.memOutOfRange, BitVec.ofNat 16 (max (dataBase t) 0x1000)⟩ := by
  dsimp only [bodyOf]
  exact checkedAll_span_of_gt hn h

/-- With every address there, the lowest cell beyond the framebuffer is reported (60_exceptions.md R227). -/
theorem bodyOf_drw_of_cell (hmem : dataBase t + n.val ≤ 0x1000) {k : Nat} (hk : k ∈ drawCells (drawBase t x y) n.val)
    (hgt : 2047 < k) (hmin : ∀ j ∈ drawCells (drawBase t x y) n.val, 2047 < j → k ≤ j) :
    bodyOf (.drw x y n) t = .error ⟨.fbOutOfRange, BitVec.ofNat 16 k⟩ := by
  dsimp only [bodyOf]
  rw [checkedAll_span_of_le hmem, checkedAll_error (drawCells_pairwise _ _) hk hgt hmin]

theorem flag_eq_one {c : Bool} : flag c = 1 ↔ c = true := by cases c <;> decide

theorem flag_zero_or_one (c : Bool) : flag c = 0 ∨ flag c = 1 := by cases c <;> decide

/-! ### A completed draw -/

/-- What a draw leaves: each cell changed where a 1 bit falls, and VF by whether one fell on a 1 (44_display.md R192,
R193). -/
structure Drawn (x y : RegNum) (n : Fin 16) (s t : State) : Prop where
  cell : ∀ k, Framebuffer.cell t.fb k = (Framebuffer.cell s.fb k ^^ spriteAt s x y n k)
  collision : t.v[vf] = 1 ↔ ∃ k, spriteAt s x y n k = true ∧ Framebuffer.cell s.fb k = true
  flag : t.v[vf] = 0 ∨ t.v[vf] = 1
  others : OtherRegs [vf] s t
  frame : OnlyFbRegs s t

/-- Where everything exists the draw completes with the framebuffer and the flag of the loop. -/
theorem exec_drw_of_fits (h : DrawFits s x y n) : ∃ t, exec (.drw x y n) s = .next t ∧ t.fb = (drawnFb s x y n).1 ∧
    t.v[vf] = flag (drawnFb s x y n).2 ∧ OtherRegs [vf] s t ∧ OnlyFbRegs s t := by
  refine ⟨_, exec_ok (bodyOf_drw_of_fits (t := s.advance) h), rfl, reg_setReg_self _ vf _, fun r hr => ?_, rfl⟩
  exact v_setReg_of_ne _ _ (by simpa using hr)

theorem exec_drw_drawn (h : DrawFits s x y n) : ∃ t, exec (.drw x y n) s = .next t ∧ Drawn x y n s t := by
  obtain ⟨t, ht, hfb, hvf, hothers, hframe⟩ := exec_drw_of_fits h
  refine ⟨t, ht, fun k => ?cell, ?collision, hvf ▸ flag_zero_or_one _, hothers, hframe⟩
  case cell => exact hfb ▸ cell_drawLoop s.mem s.fb _ _ _ h.2 k
  case collision =>
    rw [hvf, flag_eq_one, exists_spriteAt]
    refine (collision_drawLoop s.mem s.fb _ _ _ h.2).trans ⟨?_, ?_⟩
    · rintro ⟨r, hr, c, hc, hbit, hcell⟩; exact ⟨r, c, hr, hc, hbit, hcell⟩
    · rintro ⟨r, c, hr, hc, hbit, hcell⟩; exact ⟨r, hr, c, hc, hbit, hcell⟩

/-- A draw that leaves RUN was one where everything exists. -/
theorem exec_drw_completed (h : exec (.drw x y n) s = .next t) (ht : t.status = .run) :
    DrawFits s x y n ∧ Drawn x y n s t := by
  have hfits : DrawFits s x y n := by
    obtain ⟨u, hu, -⟩ | ⟨e, -, rfl⟩ := exec_cases h
    · exact (bodyOf_drw_eq_ok hu :)
    · cases ht
  obtain ⟨u, hu, hdrawn⟩ := exec_drw_drawn hfits
  cases hu.symm.trans h
  exact ⟨hfits, hdrawn⟩

end

/-- The premise of R192 (a) in plain arithmetic: the last address and the last cell exist. -/
theorem drawFits_of_le {s : State} {x y : RegNum} {n : Fin 16}
    (h : n.val = 0 ∨ (dataBase s + n.val ≤ 0x1000 ∧ drawBase s x y + 64 * (n.val - 1) + 7 ≤ 2047)) :
    DrawFits s x y n := by
  refine ⟨h.imp_right And.left, fun k hk => ?_⟩
  obtain ⟨r, hr, c, hc, rfl⟩ := mem_drawCells.mp hk
  omega

/-- Settles O43: cell by cell what a completed draw leaves. -/
theorem drwXorsTheSprite : Obligations.DrwXorsTheSprite := by
  refine ⟨fun x y n => decode_encode (.drw x y n) rfl, fun x y n s hfits => ?_⟩
  obtain ⟨t, ht, hdrawn⟩ := exec_drw_drawn (drawFits_of_le hfits)
  refine ⟨t, ht, fun r c hr hc => ?under, fun k hk => ?outside, hdrawn.flag, fun hn => ?empty, hdrawn.others,
    hdrawn.frame⟩
  case under => rw [hdrawn.cell, spriteAt_cell hr hc]
  case outside =>
    have hnone : spriteAt s x y n k = false := by
      rw [← Bool.not_eq_true, spriteAt_iff]
      rintro ⟨r, c, hr, hc, heq, -⟩
      exact hk r c hr hc heq
    rw [hdrawn.cell, hnone, Bool.xor_false]
  case empty =>
    refine hdrawn.flag.resolve_right fun hone => ?_
    obtain ⟨r, c, hr, -⟩ := exists_spriteAt.mp (hdrawn.collision.mp hone)
    omega

/-- Settles O44: the two checks of DRW in their order, each with the lowest value that fails. -/
theorem drwChecksMemoryThenCells : Obligations.DrwChecksMemoryThenCells := by
  refine fun x y n s hn => ⟨fun h => ?mem, fun hmem hlast => ?cell⟩
  case mem => exact exec_error (bodyOf_drw_of_mem (t := s.advance) hn h)
  case cell =>
    have hin : drawBase s x y + 64 * (n.val - 1) + 7 ∈ drawCells (drawBase s x y) n.val :=
      mem_drawCells.mpr ⟨n.val - 1, by omega, 7, by omega, rfl⟩
    obtain ⟨hall, -⟩ | ⟨k, hk, hgt, hmin, -⟩ :=
      checkedAll_cases 2047 .fbOutOfRange (drawCells (drawBase s x y) n.val) (.ok s) (drawCells_pairwise _ _)
    · exact absurd (hall _ hin) (Nat.not_le.mpr hlast)
    · obtain ⟨r, hr, c, hc, heq⟩ := mem_drawCells.mp hk
      refine ⟨k, ⟨r, c, hr, hc, heq⟩, hgt, fun r' c' hr' hc' hlt => ?_, ?_⟩
      · exact hmin _ (mem_drawCells.mpr ⟨r', hr', c', hc', rfl⟩) hlt
      · exact exec_error (bodyOf_drw_of_cell (t := s.advance) hmem hk hgt hmin)

/-- Settles O45: a pixel turns from 1 to 0 where a 1 bit falls on a cell that holds 1. -/
theorem drwCollisionIsAPixelTurnedOff : Obligations.DrwCollisionIsAPixelTurnedOff := by
  intro x y n s t _ h ht
  obtain ⟨-, hdrawn⟩ := exec_drw_completed h ht
  refine ⟨hdrawn.collision.trans exists_spriteAt, hdrawn.collision.trans (exists_congr fun k => ?_), hdrawn.flag⟩
  rw [hdrawn.cell k]
  cases Framebuffer.cell s.fb k <;> simp

/-- Settles O46: the second draw changes back each cell that the first has changed, and collides where the first has
turned a cell to 1. -/
theorem drawingTwiceRestores : Obligations.DrawingTwiceRestores := by
  intro x y n s t _ h ht
  obtain ⟨hfits, hfirst⟩ := exec_drw_completed h ht
  refine ⟨fun hx hy => ?place, fun hplace => ?again⟩
  case place =>
    have hregx : t.v[x] = s.v[x] := hfirst.others x (by simpa using hx)
    have hregy : t.v[y] = s.v[y] := hfirst.others y (by simpa using hy)
    exact congrArg₂ (fun a b : Byte => a.toNat + 64 * b.toNat) hregx hregy
  case again =>
    have hmem : t.mem = s.mem := (congrArg State.mem hfirst.frame :)
    have hi : t.i = s.i := (congrArg State.i hfirst.frame :)
    have hsprite := spriteAt_congr (n := n) hmem hi hplace
    have hdata : dataBase t = dataBase s := congrArg BitVec.toNat hi
    obtain ⟨u, hu, hsecond⟩ := exec_drw_drawn (s := t) (x := x) (y := y) (n := n) (by
      rw [DrawFits, hdata, hplace]; exact hfits)
    have hcollision : u.v[vf] = 1 ↔ ∃ k, spriteAt s x y n k = true ∧ Framebuffer.cell s.fb k = false := by
      refine hsecond.collision.trans (exists_congr fun k => ?_)
      rw [hsprite, hfirst.cell k]
      cases spriteAt s x y n k <;> simp
    refine ⟨u, hu, framebuffer_ext fun k _ => ?restored, hcollision.trans exists_spriteAt,
      fun hclear => ⟨?quiet, ?loud⟩⟩
    case restored => rw [hsecond.cell, hfirst.cell, hsprite, Bool.xor_assoc, Bool.xor_self, Bool.xor_false]
    case quiet =>
      refine hfirst.flag.resolve_right fun hone => ?_
      obtain ⟨r, c, hr, hc, -, hcell⟩ := exists_spriteAt.mp (hfirst.collision.mp hone)
      rw [hclear r c hr hc] at hcell
      cases hcell
    case loud =>
      refine (hcollision.trans exists_spriteAt).trans ⟨?_, ?_⟩
      · rintro ⟨r, c, hr, hc, hbit, -⟩; exact ⟨r, c, hr, hc, hbit⟩
      · rintro ⟨r, c, hr, hc, hbit⟩; exact ⟨r, c, hr, hc, hbit, hclear r c hr hc⟩

end Sys2Proof.Machine
end

section
/-!
SUPPORT. What no instruction observes (10_state.md R30, R32, R43): the parts of the state that are hidden, that a body
gives the same result up to the hidden part from states that agree up to it, and from this the statements on the host's
registers, on the key lines, on the stale slots and on ST.
-/

namespace Sys2Proof.Machine

/-! ### The hidden parts -/

/-- A part of the state that few instructions or none observe. -/
inductive Hidden where
  /-- ST (46_timers.md R212). -/
  | sound
  /-- The idle flags, WAIT_X, the fault registers and TAG (10_state.md R32, section 9). -/
  | host
  /-- The key lines (10_state.md R33). -/
  | keys
  /-- The stack slots (10_state.md R30). -/
  | slots

/-- The state with a part of it overwritten by fixed values. -/
def hide : Hidden → State → State
  | .sound, t => { t with st := 0 }
  | .host, t => { t with
      dtIdle := false, stIdle := false, waitX := 0, faultCause := .none, faultPc := 0, faultWord := 0, faultInfo := 0,
      tag := 0, tagHeld := false }
  | .keys, t => { t with key := .replicate 16 false }
  | .slots, t => { t with stack := .replicate 16 0 }

/-- The operations that observe the part. -/
def readers : Hidden → List Op
  | .sound => []
  | .host => []
  | .keys => [.SKP, .SKNP, .LD_VX_K]
  | .slots => [.RET]

section
variable (m : Hidden) (t : State)

theorem hide_v : (hide m t).v = t.v := by cases m <;> rfl
theorem hide_i : (hide m t).i = t.i := by cases m <;> rfl
theorem hide_sp : (hide m t).sp = t.sp := by cases m <;> rfl
theorem hide_mem : (hide m t).mem = t.mem := by cases m <;> rfl

theorem hide_key {m : Hidden} (h : m ≠ .keys) : (hide m t).key = t.key := by
  cases m
  case keys => exact absurd rfl h
  all_goals rfl

theorem hide_reg (x : RegNum) : (hide m t).reg x = t.reg x := by simp only [State.reg, hide_v]
theorem hide_dataBase : dataBase (hide m t) = dataBase t := by simp only [dataBase, hide_i]
theorem hide_drawBase (x y : RegNum) : drawBase (hide m t) x y = drawBase t x y := by simp only [drawBase, hide_reg]

theorem hide_skipIf (c : Bool) : hide m (t.skipIf c) = hide m ((hide m t).skipIf c) := by
  cases c <;> cases m <;> rfl

theorem hide_setReg (x : RegNum) (b : Byte) : hide m (t.setReg x b) = hide m ((hide m t).setReg x b) := by
  cases m <;> rfl

theorem hide_loadRegs (k : Nat) (bs : List Byte) : hide m (loadRegs t k bs) = hide m (loadRegs (hide m t) k bs) := by
  induction bs generalizing t k with
  | nil => cases m <;> rfl
  | cons b bs ih =>
    have hfirst : hide m { t with v := t.v.setIfInBounds k b } =
        hide m { hide m t with v := (hide m t).v.setIfInBounds k b } := by cases m <;> rfl
    rw [loadRegs, loadRegs, ih, hfirst, ← ih]

theorem hide_setTag (tag : Word) : hide m (t.setTag tag) = hide m ((hide m t).setTag tag) := by cases m <;> rfl

theorem hide_advance : hide m t.advance = hide m (hide m t).advance := by cases m <;> rfl

theorem hide_faultedBy (i : Instr) (c : FaultCause) (w : Word) :
    hide m (faultedBy i c w t) = hide m (faultedBy i c w (hide m t)) := by cases m <;> rfl

end

/-! ### Bodies that do not observe it -/

/-- Up to the hidden part, the body gives the same result when the part is overwritten before it runs. -/
def Blind (m : Hidden) (body : Body) : Prop := ∀ t, (body t).map (hide m) = (body (hide m t)).map (hide m)

section
variable {m : Hidden}

theorem blind_ok {f : State → State} (h : ∀ t, hide m (f t) = hide m (f (hide m t))) : Blind m fun t => .ok (f t) :=
  fun t => congrArg Except.ok (h t)

theorem blind_checked {ok : State → Bool} {cause : FaultCause} {info : State → Word} {rest : Body}
    (hok : ∀ t, ok (hide m t) = ok t) (hinfo : ∀ t, info (hide m t) = info t) (h : Blind m rest) :
    Blind m fun t => checked (ok t) cause (info t) (rest t) := by
  intro t
  dsimp only [checked]
  rw [hok, hinfo]
  split
  · exact h t
  · rfl

theorem blind_checkedAll {top : Nat} {cause : FaultCause} {as : State → List Nat} {rest : Body}
    (has : ∀ t, as (hide m t) = as t) (h : Blind m rest) : Blind m fun t => checkedAll top cause (as t) (rest t) := by
  intro t
  dsimp only [checkedAll]
  rw [has]
  split
  · rfl
  · exact h t

theorem blind_withKeyLine (hm : m ≠ .keys) {x : RegNum} {rest : Bool → Body} (h : ∀ down, Blind m (rest down)) :
    Blind m fun t => withKeyLine (t.reg x) rest t := by
  intro t
  dsimp only
  rw [hide_reg]
  obtain hk | hk : (t.reg x).toNat < 16 ∨ 0xF < (t.reg x).toNat := by omega
  · have hline : (hide m t).keyLine ⟨_, hk⟩ = t.keyLine ⟨_, hk⟩ := by simp only [State.keyLine, hide_key t hm]
    rw [withKeyLine_of_lt hk, withKeyLine_of_lt hk, hline]
    exact h _ t
  · rw [withKeyLine_of_gt hk, withKeyLine_of_gt hk]

theorem blind_call (nnn : Imm12) : Blind m (bodyOf (.call nnn)) := by
  intro t
  obtain hs | hs : t.sp.val < 16 ∨ t.sp.val = 16 := by omega
  · rw [bodyOf_call_of_lt nnn hs, bodyOf_call_of_lt nnn (by rwa [hide_sp])]
    cases m <;> rfl
  · rw [bodyOf_call_of_full nnn hs, bodyOf_call_of_full nnn (by rwa [hide_sp])]

theorem blind_ret (hm : m ≠ .slots) (ign : Byte) : Blind m (bodyOf (.ret ign)) := by
  intro t
  obtain hs | hs := Nat.eq_zero_or_pos t.sp.val
  · rw [bodyOf_ret_of_empty ign hs, bodyOf_ret_of_empty ign (by rwa [hide_sp])]
  · rw [bodyOf_ret_of_pos ign hs, bodyOf_ret_of_pos ign (by rwa [hide_sp])]
    cases m
    case slots => exact absurd rfl hm
    all_goals rfl

theorem blind_ldVxK (hm : m ≠ .keys) (x : RegNum) (ign : Nibble) : Blind m (bodyOf (.ldVxK x ign)) := by
  intro t
  have hlow : lowestKey (hide m t) = lowestKey t := by simp only [lowestKey, State.keyLine, hide_key t hm]
  dsimp only [bodyOf]
  rw [hlow]
  cases lowestKey t with
  | some k => exact congrArg Except.ok (hide_setReg m t x _)
  | none => cases m <;> rfl

/-- An instruction that does not read the part is blind to it. -/
theorem blind_bodyOf {i : Instr} (h : i.op ∉ readers m) : Blind m (bodyOf i) := by
  have hm {p : Hidden} (hp : i.op ∈ readers p) : m ≠ p := fun heq => h (heq ▸ hp)
  cases i
  case seImm | sneImm | seReg | sneReg => exact blind_ok fun t => by simp only [hide_reg]; exact hide_skipIf m t _
  case skp =>
    exact blind_withKeyLine (hm (by simp [readers, Instr.op])) fun down => blind_ok fun t => hide_skipIf m t down
  case sknp =>
    exact blind_withKeyLine (hm (by simp [readers, Instr.op])) fun down => blind_ok fun t => hide_skipIf m t (!down)
  case ldVxK x ign => exact blind_ldVxK (hm (by simp [readers, Instr.op])) x ign
  case ret ign => exact blind_ret (hm (by simp [readers, Instr.op])) ign
  case call nnn => exact blind_call nnn
  case ldFVx =>
    exact blind_checked (fun t => by rw [hide_reg]) (fun t => by rw [hide_reg])
      (blind_ok fun t => by cases m <;> rfl)
  case ldBVx | ldMemVx =>
    exact blind_checkedAll (fun t => by rw [hide_dataBase]) (blind_ok fun t => by cases m <;> rfl)
  case ldVxMem =>
    exact blind_checkedAll (fun t => by rw [hide_dataBase])
      (blind_ok fun t => by rw [hide_dataBase, hide_mem]; exact hide_loadRegs m t 0 _)
  case drw =>
    exact blind_checkedAll (fun t => by rw [hide_dataBase])
      (blind_checkedAll (fun t => by rw [hide_drawBase]) (blind_ok fun t => by cases m <;> rfl))
  case invalid => exact fun _ => rfl
  all_goals exact blind_ok fun t => by cases m <;> rfl

/-- Two states that agree up to a part that the instruction does not read give states that agree up to it. -/
theorem exec_hide {i : Instr} (h : i.op ∉ readers m) (s s' : State) (hs : hide m s' = hide m s) :
    ∃ t t', exec i s = .next t ∧ exec i s' = .next t' ∧ hide m t' = hide m t := by
  obtain ⟨t, ht⟩ := exec_next i s
  obtain ⟨t', ht'⟩ := exec_next i s'
  refine ⟨t, t', ht, ht', ?_⟩
  have hadvance : hide m s'.advance = hide m s.advance := by rw [hide_advance, hs, ← hide_advance]
  have hbody : (bodyOf i s'.advance).map (hide m) = (bodyOf i s.advance).map (hide m) := by
    rw [blind_bodyOf h s'.advance, hadvance, ← blind_bodyOf h s.advance]
  obtain ⟨u, hu, rfl⟩ | ⟨e, he, rfl⟩ := exec_cases ht
  all_goals obtain ⟨u', hu', rfl⟩ | ⟨e', he', rfl⟩ := exec_cases ht'
  · rw [hu, hu'] at hbody
    rw [hide_setTag, Except.ok.inj hbody, ← hide_setTag]
  · rw [hu, he'] at hbody; cases hbody
  · rw [he, hu'] at hbody; cases hbody
  · rw [he, he'] at hbody
    cases Except.error.inj hbody
    rw [hide_faultedBy, hs, ← hide_faultedBy]

end

/-! ### The statements -/

/-- Settles O51: the two writes by their bodies; that ST is not read is that every instruction is blind to it. -/
theorem timerWritesClearIdle : Obligations.TimerWritesClearIdle := by
  refine ⟨fun x => decode_encode (.ldDtVx x) rfl, fun x m => decode_encode (.ldStVx x m) rfl,
    fun x s => ⟨_, exec_ok (i := .ldDtVx x) (s := s) rfl, rfl, rfl, rfl⟩,
    fun x m s => ⟨_, exec_ok (i := .ldStVx x m) (s := s) rfl, rfl, rfl, sound_iff _, rfl⟩, fun i s c => ?unread⟩
  case unread =>
    obtain ⟨t, t', ht, ht', hsame⟩ := exec_hide (m := .sound) (i := i) (by simp [readers]) s { s with st := c } rfl
    exact ⟨t, t', ht, ht', congrArg (fun w : State => { w with st := t'.st }) hsame⟩

/-- Settles O17: every instruction is blind to the host's registers, and all but the three key instructions to the key
lines, which none of them writes. -/
theorem hostStateIsUnobserved : Obligations.HostStateIsUnobserved := by
  refine ⟨fun i s d e h x c p w f g => ?host, fun i s k hi => ?keys⟩
  case host =>
    obtain ⟨t, t', ht, ht', hsame⟩ := exec_hide (m := .host) (i := i) (by simp [readers]) s { s with
      dtIdle := d, stIdle := e, waitX := x, faultCause := c, faultPc := p, faultWord := w, faultInfo := f, tag := g,
      tagHeld := h } rfl
    obtain ⟨htag, hheld⟩ := exec_tag ht
    obtain ⟨htag', hheld'⟩ := exec_tag ht'
    have hrest := congrArg (fun w : State => { w with
        dtIdle := t'.dtIdle, stIdle := t'.stIdle, waitX := t'.waitX, faultCause := t'.faultCause, faultPc := t'.faultPc,
        faultWord := t'.faultWord, faultInfo := t'.faultInfo, tag := t'.tag, tagHeld := t'.tagHeld }) hsame
    exact ⟨t, t', ht, ht', hrest.trans (by rw [htag'.trans htag.symm, hheld'.trans hheld.symm]; rfl)⟩
  case keys =>
    obtain ⟨t, t', ht, ht', hsame⟩ := exec_hide (m := .keys) hi s { s with key := k } rfl
    obtain ⟨-, -, -, -, -, hkey, -⟩ := stateElementsHaveTheirWriters i _ t' ht'
    have hrest : t' = { t with key := k } := by
      rw [show k = t'.key from hkey.symm]
      exact congrArg (fun w : State => { w with key := t'.key }) hsame
    exact ⟨t, ht, ht'.trans (congrArg Host.Outcome.next hrest)⟩

/-! ### The stale slots -/

/-- Slot by slot, the states with the slots of `stk` and of `s` agree below SP after an instruction that does not pop. -/
theorem exec_slots {i : Instr} {s t t' : State} {stk : Vector Word 16} (hret : i.op ≠ .RET)
    (hstk : ∀ j : Fin 16, j.val < s.sp.val → stk[j] = s.stack[j]) (ht : exec i s = .next t)
    (ht' : exec i { s with stack := stk } = .next t') (j : Fin 16) (hj : j.val < t.sp.val) :
    t'.stack[j] = t.stack[j] := by
  obtain ⟨-, hsp, hstack, -⟩ := stateElementsHaveTheirWriters i s t ht
  obtain ⟨-, -, hstack', -⟩ := stateElementsHaveTheirWriters i _ t' ht'
  by_cases hop : i.op = .CALL
  case neg =>
    have hkept : t.sp = s.sp := by_contra fun hne => by simpa [hop, hret] using hsp hne
    rw [not_imp_comm.mp hstack hop, not_imp_comm.mp hstack' hop]
    exact hstk j (hkept ▸ hj)
  case pos =>
    cases i <;> cases hop
    next nnn =>
    obtain hs | hs : s.sp.val < 16 ∨ s.sp.val = 16 := by omega
    · cases (exec_ok (bodyOf_call_of_lt nnn (t := s.advance) hs)).symm.trans ht
      cases (exec_ok (bodyOf_call_of_lt nnn (t := { s.advance with stack := stk }) hs)).symm.trans ht'
      have hle : j.val < s.sp.val + 1 := hj
      obtain htop | hbelow := Nat.lt_succ_iff_lt_or_eq.mp hle |>.symm
      · simp [htop]
      · have hne : s.sp.val ≠ j.val := by omega
        simpa [hne] using hstk j hbelow
    · cases (exec_error (bodyOf_call_of_full nnn (t := s.advance) hs)).symm.trans ht
      cases (exec_error (bodyOf_call_of_full nnn (t := { s.advance with stack := stk }) hs)).symm.trans ht'
      exact hstk j hj

/-- RET reads the slot below the old SP, which the two stacks share (40_control_flow.md R111). -/
theorem exec_ret_slots (ign : Byte) (s : State) (stk : Vector Word 16)
    (hstk : ∀ j : Fin 16, j.val < s.sp.val → stk[j] = s.stack[j]) :
    ∃ t t' : State, exec (.ret ign) s = .next t ∧ exec (.ret ign) { s with stack := stk } = .next t' ∧
      t' = { t with stack := t'.stack } ∧ ∀ j : Fin 16, j.val < t.sp.val → t'.stack[j] = t.stack[j] := by
  obtain hs | hs := Nat.eq_zero_or_pos s.sp.val
  · exact ⟨_, _, exec_error (bodyOf_ret_of_empty ign (t := s.advance) hs),
      exec_error (bodyOf_ret_of_empty ign (t := { s.advance with stack := stk }) hs), rfl, hstk⟩
  · refine ⟨_, _, exec_ok (bodyOf_ret_of_pos ign (t := s.advance) hs),
      exec_ok (bodyOf_ret_of_pos ign (t := { s.advance with stack := stk }) hs), ?target, fun j hj => hstk j ?below⟩
    case target =>
      have htop := hstk ⟨s.sp.val - 1, by omega⟩ (Nat.sub_one_lt (Nat.ne_of_gt hs))
      exact congrArg (fun p : Word => ({ s with sp := ⟨s.sp.val - 1, by omega⟩, pc := p, stack := stk } : State).setTag
        (opTag .RET)) htop
    case below => exact Nat.lt_of_lt_of_le hj (Nat.sub_le _ _)

/-- Settles O18: every instruction but RET is blind to the slots, and RET reads none at SP or above. -/
theorem staleSlotsAreUnobservable : Obligations.StaleSlotsAreUnobservable := by
  intro i s stk hstk
  by_cases hret : i.op = .RET
  case pos =>
    cases i <;> cases hret
    next ign => exact exec_ret_slots ign s stk hstk
  case neg =>
    obtain ⟨t, t', ht, ht', hsame⟩ :=
      exec_hide (m := .slots) (i := i) (by simpa [readers] using hret) s { s with stack := stk } rfl
    exact ⟨t, t', ht, ht', congrArg (fun w : State => { w with stack := t'.stack }) hsame,
      exec_slots hret hstk ht ht'⟩

end Sys2Proof.Machine
end
